-- ==== Sys2Proof/Word.lean ====
section
/-! DEFINITION. The machine's word types: a byte of memory, an address, the register widths of rules R13, R20, R23,
R24 and R25. -/

namespace Sys2Proof

/-- A byte of memory or of an instruction (R40). -/
abbrev Byte := BitVec 8

/-- A linear address, an instruction pointer or a general register: 64 bits; outside 64-bit mode the low 32 are the
register and the upper ones are not looked at (R13, R20, R21). -/
abbrev Addr := BitVec 64

/-- The contents of an MMX register (R23). -/
abbrev Mm := BitVec 64

/-- The contents of a vector register at the largest width the spec gives, MAXVL = 512; where MAXVL is 128 or 256 the
bits above it do not exist and the model's invariant says that they are 0 (R8, R24). -/
abbrev Zmm := BitVec 512

/-- The contents of an opmask register: MAX_KL bits, where MAX_KL is any natural number (R9, R25), so the bits are held
as the number they write, bit j being `testBit j`. The model's invariant says that it is below 2^MAX_KL. -/
abbrev Opmask := Nat

end Sys2Proof
end

