-- ==== Sys2Proof/Machine/Compare.lean ====
section
/-! DEFINITION. The compare functions of 40_compare_helpers.md: equality of packed elements into elements (R100 to R103)
and into mask bits (R104), and the broadcast of R130. The only arithmetic in scope (R105). -/

namespace Sys2Proof.Machine

/-- Element `j` of width `w` of `a`: bits `w*j + w - 1 : w*j` (R11). -/
def lane {n : Nat} (w j : Nat) (a : BitVec n) : BitVec w := a.extractLsb' (w * j) w

/-- `EqLanes(w, count, a, b)` (R103): lane j of the result is all ones where lanes j of `a` and `b` are equal and zero
where they are not. -/
def eqLanes {n : Nat} (w : Nat) : (count : Nat) → (a b : BitVec n) → BitVec n
  | 0, _, _ => 0
  | j + 1, a, b =>
    eqLanes w j a b ||| (if lane w j a = lane w j b then (BitVec.allOnes w).setWidth n <<< (w * j) else 0)

/-- `COMPARE_BYTES_EQUAL` (R100). -/
def compareBytesEqual (a b : BitVec 128) : BitVec 128 := eqLanes 8 16 a b

/-- `COMPARE_WORDS_EQUAL` (R101). -/
def compareWordsEqual (a b : BitVec 128) : BitVec 128 := eqLanes 16 8 a b

/-- `COMPARE_DWORDS_EQUAL` (R102). -/
def compareDwordsEqual (a b : BitVec 128) : BitVec 128 := eqLanes 32 4 a b

/-- Element `j` is computed: there is no writemask, or its bit is 1 (R104). -/
def maskEnables (km : Option Opmask) (j : Nat) : Bool :=
  match km with
  | none => true
  | some m => m.testBit j

/-- `EqMask(w, kl, a, b, km)` (R104): bit j, for j below `kl`, is 1 where element j is enabled and the lanes are equal;
every other bit is 0. -/
def eqMask {n : Nat} (w : Nat) : (kl : Nat) → (a b : BitVec n) → (km : Option Opmask) → Opmask
  | 0, _, _, _ => 0
  | j + 1, a, b, km =>
    eqMask w j a b km ||| (if maskEnables km j && lane w j a == lane w j b then 1 <<< j else 0)

/-- A 32-bit value in every doubleword of an `n`-bit vector (R130). -/
def broadcast (n : Nat) (v : BitVec 32) : BitVec n := (BitVec.replicate (n / 32) v).setWidth n

end Sys2Proof.Machine
end

