-- ==== Sys2Proof/Config.lean ====
section
/-! DEFINITION. The launch configuration `cfg` of 00_scope.md (R6 to R10, R40, R153): what an implementation or a launch
fixes and no instruction in scope changes; and the one value the spec leaves free, the byte that another writer of
memory shows a read (R49). -/

namespace Sys2Proof

/-- `cfg.feat`: the CPUID feature flags of R2 (R7). -/
structure Features where
  mmx : Bool
  sse2 : Bool
  avx : Bool
  avx2 : Bool
  avx512f : Bool
  avx512vl : Bool
  avx512bw : Bool
  deriving DecidableEq, Repr

/-- `cfg.MAXVL`: the width of a full vector register, 128, 256 or 512 (R8). -/
inductive MaxVl where
  | v128
  | v256
  | v512
  deriving DecidableEq, Repr

/-- MAXVL as a number of bits (R8). -/
def MaxVl.bits : MaxVl → Nat
  | .v128 => 128
  | .v256 => 256
  | .v512 => 512

/-- `cfg.la_bits`: how many linear-address bits are implemented, 48 or 57 (R40). -/
inductive LaBits where
  | la48
  | la57
  deriving DecidableEq, Repr

/-- `la_bits` as a number (R40). -/
def LaBits.count : LaBits → Nat
  | .la48 => 48
  | .la57 => 57

/-- The launch configuration (R6 to R9, R40, R153). `os_enabled`, `ts` and `ac_checking` are not fields: the registers they
stand for are in State, and Machine/Flags.lean computes them (R26). -/
structure Config where
  /-- true: 64-bit mode; false: 32-bit protected or compatibility mode (R6). -/
  mode64 : Bool
  /-- the CPUID feature flags (R7). -/
  feat : Features
  /-- MAXVL (R8). -/
  maxVl : MaxVl
  /-- MAX_KL, the width of an opmask register (R9). -/
  maxKl : Nat
  /-- implemented linear-address bits (R40). -/
  laBits : LaBits
  /-- an unmasked x87 exception is pending (R153). -/
  x87Pending : Bool
  deriving DecidableEq, Repr

/-- Between flags (R7): AVX2 implies AVX; AVX512VL and AVX512BW each imply AVX512F; AVX512F implies AVX2. -/
def Features.wf (f : Features) : Bool :=
  (!f.avx2 || f.avx) && (!f.avx512vl || f.avx512f) && (!f.avx512bw || f.avx512f) && (!f.avx512f || f.avx2)

/-- What the spec tells a model to require of `cfg` (R7, R8, R9). -/
def Config.wf (c : Config) : Bool :=
  c.feat.wf
    && (!c.feat.avx512f || c.maxVl.bits == 512)
    && (!c.feat.avx || decide (256 ≤ c.maxVl.bits))
    && (!c.feat.avx512f || decide (16 ≤ c.maxKl))
    && (!c.feat.avx512bw || decide (64 ≤ c.maxKl))

/-- The configuration 95_test_vectors.md takes unless a vector says otherwise: 64-bit mode, every feature, MAXVL = 512,
MAX_KL = 64, no x87 exception pending; `la_bits` = 48, as its vectors on canonical addresses have it. -/
def Config.usual : Config where
  mode64 := true
  feat := { mmx := true, sse2 := true, avx := true, avx2 := true, avx512f := true, avx512vl := true, avx512bw := true }
  maxVl := .v512
  maxKl := 64
  laBits := .la48
  x87Pending := false

/-- FREE VALUE (R49, R47): what the `read`-th operand read of a run finds in the byte at `addr` when the launch admits
other writers of memory. Nothing constrains it, per byte and per read. -/
opaque Config.oracleByte (read addr : Nat) : Byte

end Sys2Proof
end

