-- ==== Sys2Proof/Syntax.lean ====
section
/-! DEFINITION. The instructions: one constructor for each of the 21 rows of the opcode table (R62), over the operand
shapes of R15, R63, R65, R68, R70 and R72. An instruction is the encoded instruction: it also carries the choices of its
encoding that change its length (an address-size prefix, a REX byte, the two- or three-byte VEX form, the size of the
displacement), because every meaning advances pc by the length (R78). -/

namespace Sys2Proof

/-- The displacement that ModRM.mod selects: none, 8 bits or 32 bits, as stored (R65). -/
inductive Disp where
  | none
  | d8 (d : BitVec 8)
  | d32 (d : BitVec 32)
  deriving DecidableEq, Repr

/-- The memory operand of a ModRM byte with mod not 3 (R65). Base and index are general-register numbers with their
extension bit; index number 4 means no index. -/
inductive MemOp where
  /-- mod = 0, rm = 5: `[RIP + disp32]` in 64-bit mode, `[disp32]` outside. -/
  | dispOnly (d : BitVec 32)
  /-- no SIB byte: `[base + disp]`. -/
  | base (b : Fin 16) (d : Disp)
  /-- SIB byte with a base: `[base + index * 2^scale + disp]`. -/
  | sib (b idx : Fin 16) (scale : Fin 4) (d : Disp)
  /-- SIB byte, mod = 0, base field 5: `[index * 2^scale + disp32]`. -/
  | sibNoBase (idx : Fin 16) (scale : Fin 4) (d : BitVec 32)
  deriving DecidableEq, Repr

/-- The ModRM:r/m operand: a register of a file of `n`, or memory (R64). -/
inductive Rm (n : Nat) where
  | reg (r : Fin n)
  | mem (m : MemOp)
  deriving DecidableEq, Repr

/-- The ModRM:r/m operand of EVEX VPCMPEQD: a vector register, a full memory operand, or a 32-bit memory operand that is
broadcast (EVEX.b = 1) (R72, R130). -/
inductive RmBcst where
  | reg (r : Fin 32)
  | mem (m : MemOp)
  | bcst (m : MemOp)
  deriving DecidableEq, Repr

/-- What stands before the opcode of a legacy form, apart from 0x66, which selects the row: 0x67, and whether there is a
REX byte (R60, R67). -/
structure LegacyPrefix where
  addr32 : Bool
  rex : Bool
  deriving DecidableEq, Repr

/-- The prefix of a VEX form: 0x67 before it, and whether it is the three-byte form C4 (R69). -/
structure VexPrefix where
  addr32 : Bool
  three : Bool
  deriving DecidableEq, Repr

/-- The 21 instruction forms, in the order of the opcode table (R62). An EVEX form's `mask` is `none` for "no writemask",
`some k` for the writemask register number k, 1 to 7 (R73). -/
inductive Instr where
  /-- row 1: PCMPEQB mm, mm/m64 (R110) -/
  | pcmpeqbMm (p : LegacyPrefix) (dst : Fin 8) (src : Rm 8)
  /-- row 2: PCMPEQB xmm1, xmm2/m128 (R113) -/
  | pcmpeqbXmm (p : LegacyPrefix) (dst : Fin 16) (src : Rm 16)
  /-- row 3: PCMPEQW mm, mm/m64 (R111) -/
  | pcmpeqwMm (p : LegacyPrefix) (dst : Fin 8) (src : Rm 8)
  /-- row 4: PCMPEQW xmm1, xmm2/m128 (R114) -/
  | pcmpeqwXmm (p : LegacyPrefix) (dst : Fin 16) (src : Rm 16)
  /-- row 5: PCMPEQD mm, mm/m64 (R112) -/
  | pcmpeqdMm (p : LegacyPrefix) (dst : Fin 8) (src : Rm 8)
  /-- row 6: PCMPEQD xmm1, xmm2/m128 (R115) -/
  | pcmpeqdXmm (p : LegacyPrefix) (dst : Fin 16) (src : Rm 16)
  /-- row 7: VPCMPEQB xmm1, xmm2, xmm3/m128 (R121) -/
  | vpcmpeqbXmm (p : VexPrefix) (dst src1 : Fin 16) (src2 : Rm 16)
  /-- row 8: VPCMPEQW xmm1, xmm2, xmm3/m128 (R122) -/
  | vpcmpeqwXmm (p : VexPrefix) (dst src1 : Fin 16) (src2 : Rm 16)
  /-- row 9: VPCMPEQD xmm1, xmm2, xmm3/m128 (R123) -/
  | vpcmpeqdXmm (p : VexPrefix) (dst src1 : Fin 16) (src2 : Rm 16)
  /-- row 10: VPCMPEQB ymm1, ymm2, ymm3/m256 (R124) -/
  | vpcmpeqbYmm (p : VexPrefix) (dst src1 : Fin 16) (src2 : Rm 16)
  /-- row 11: VPCMPEQW ymm1, ymm2, ymm3/m256 (R125) -/
  | vpcmpeqwYmm (p : VexPrefix) (dst src1 : Fin 16) (src2 : Rm 16)
  /-- row 12: VPCMPEQD ymm1, ymm2, ymm3/m256 (R126) -/
  | vpcmpeqdYmm (p : VexPrefix) (dst src1 : Fin 16) (src2 : Rm 16)
  /-- row 13: VPCMPEQD k1 {k2}, xmm2, xmm3/m128/m32bcst (R131) -/
  | vpcmpeqdK128 (addr32 : Bool) (dst : Fin 8) (mask : Option (Fin 8)) (src1 : Fin 32) (src2 : RmBcst)
  /-- row 14: VPCMPEQD k1 {k2}, ymm2, ymm3/m256/m32bcst (R132) -/
  | vpcmpeqdK256 (addr32 : Bool) (dst : Fin 8) (mask : Option (Fin 8)) (src1 : Fin 32) (src2 : RmBcst)
  /-- row 15: VPCMPEQD k1 {k2}, zmm2, zmm3/m512/m32bcst (R133) -/
  | vpcmpeqdK512 (addr32 : Bool) (dst : Fin 8) (mask : Option (Fin 8)) (src1 : Fin 32) (src2 : RmBcst)
  /-- row 16: VPCMPEQB k1 {k2}, xmm2, xmm3/m128 (R134) -/
  | vpcmpeqbK128 (addr32 : Bool) (dst : Fin 8) (mask : Option (Fin 8)) (src1 : Fin 32) (src2 : Rm 32)
  /-- row 17: VPCMPEQB k1 {k2}, ymm2, ymm3/m256 (R135) -/
  | vpcmpeqbK256 (addr32 : Bool) (dst : Fin 8) (mask : Option (Fin 8)) (src1 : Fin 32) (src2 : Rm 32)
  /-- row 18: VPCMPEQB k1 {k2}, zmm2, zmm3/m512 (R136) -/
  | vpcmpeqbK512 (addr32 : Bool) (dst : Fin 8) (mask : Option (Fin 8)) (src1 : Fin 32) (src2 : Rm 32)
  /-- row 19: VPCMPEQW k1 {k2}, xmm2, xmm3/m128 (R137) -/
  | vpcmpeqwK128 (addr32 : Bool) (dst : Fin 8) (mask : Option (Fin 8)) (src1 : Fin 32) (src2 : Rm 32)
  /-- row 20: VPCMPEQW k1 {k2}, ymm2, ymm3/m256 (R138) -/
  | vpcmpeqwK256 (addr32 : Bool) (dst : Fin 8) (mask : Option (Fin 8)) (src1 : Fin 32) (src2 : Rm 32)
  /-- row 21: VPCMPEQW k1 {k2}, zmm2, zmm3/m512 (R139) -/
  | vpcmpeqwK512 (addr32 : Bool) (dst : Fin 8) (mask : Option (Fin 8)) (src1 : Fin 32) (src2 : Rm 32)
  deriving DecidableEq, Repr

end Sys2Proof
end

