-- ==== Sys2Proof/WellFormed.lean ====
section
/-! DEFINITION. Which terms of Syntax.lean are encodable instructions in a given mode (R65 to R76). A term that fails a
check has no encoding in that mode, and the decoder never answers one. -/

namespace Sys2Proof

/-- Registers 8 and above need an extension bit (R67, R69, R71, R76). -/
def regOk (ext : Bool) (r : Nat) : Bool := decide (r < 8) || ext

/-- A memory operand that a ModRM and SIB byte can hold, with the given extension bits available (R65): a base whose low
bits are 4 needs a SIB byte, and one whose low bits are 5 needs a displacement. -/
def MemOp.wellFormed (ext : Bool) : MemOp → Bool
  | .dispOnly _ => true
  | .base b d => b.val % 8 != 4 && (b.val % 8 != 5 || d != .none) && regOk ext b
  | .sib b idx _ d => (b.val % 8 != 5 || d != .none) && regOk ext b && regOk ext idx
  | .sibNoBase idx _ _ => regOk ext idx

def Rm.wellFormed (ext : Bool) {n : Nat} : Rm n → Bool
  | .reg r => regOk ext r
  | .mem m => m.wellFormed ext

def RmBcst.wellFormed (ext : Bool) : RmBcst → Bool
  | .reg r => regOk ext r
  | .mem m => m.wellFormed ext
  | .bcst m => m.wellFormed ext

/-- The legacy shape (R67, R68, R76): 0x67 and REX only in 64-bit mode; registers 8 and above only with REX. -/
def legacyWellFormed (mode64 : Bool) (p : LegacyPrefix) (dst : Nat) {n : Nat} (src : Rm n) : Bool :=
  (!p.addr32 || mode64) && (!p.rex || mode64) && regOk p.rex dst && src.wellFormed p.rex

/-- The VEX shape (R69, R70, R76): only the three-byte form extends the r/m operand. -/
def vexWellFormed (mode64 : Bool) (p : VexPrefix) (dst src1 : Fin 16) (src2 : Rm 16) : Bool :=
  (!p.addr32 || mode64) && regOk mode64 dst && regOk mode64 src1 && src2.wellFormed (mode64 && p.three)

/-- The EVEX shape (R72, R73, R76), apart from the r/m operand: K0 is no writemask. -/
def evexWellFormed (mode64 addr32 : Bool) (mask : Option (Fin 8)) (src1 : Fin 32) : Bool :=
  (!addr32 || mode64) && mask != some 0 && regOk mode64 src1

/-- The instruction has an encoding in the mode `mode64`. -/
def Instr.wellFormed (mode64 : Bool) : Instr → Bool
  | .pcmpeqbMm p dst src | .pcmpeqwMm p dst src | .pcmpeqdMm p dst src => legacyWellFormed mode64 p dst src
  | .pcmpeqbXmm p dst src | .pcmpeqwXmm p dst src | .pcmpeqdXmm p dst src => legacyWellFormed mode64 p dst src
  | .vpcmpeqbXmm p dst src1 src2 | .vpcmpeqwXmm p dst src1 src2 | .vpcmpeqdXmm p dst src1 src2
  | .vpcmpeqbYmm p dst src1 src2 | .vpcmpeqwYmm p dst src1 src2 | .vpcmpeqdYmm p dst src1 src2 =>
    vexWellFormed mode64 p dst src1 src2
  | .vpcmpeqdK128 a _ mask src1 src2 | .vpcmpeqdK256 a _ mask src1 src2 | .vpcmpeqdK512 a _ mask src1 src2 =>
    evexWellFormed mode64 a mask src1 && src2.wellFormed mode64
  | .vpcmpeqbK128 a _ mask src1 src2 | .vpcmpeqbK256 a _ mask src1 src2 | .vpcmpeqbK512 a _ mask src1 src2
  | .vpcmpeqwK128 a _ mask src1 src2 | .vpcmpeqwK256 a _ mask src1 src2 | .vpcmpeqwK512 a _ mask src1 src2 =>
    evexWellFormed mode64 a mask src1 && src2.wellFormed mode64

end Sys2Proof
end

