-- ==== Sys2Proof/Decode.lean ====
section
/-! DEFINITION. Decoding (R60 to R78, R81), total on any bytes and rejecting by name; the length of an instruction (R78);
and the encoder, written from the same layouts. -/

namespace Sys2Proof

/-! ### Bit fields -/

/-- `b[lo + n - 1 : lo]` as a number (R11). -/
def bits (b : Byte) (lo n : Nat) : Nat := b.toNat / 2 ^ lo % 2 ^ n

/-- The n-bit complement of a field stored complemented (R69, R71). -/
def barred (b : Byte) (lo n : Nat) : Nat := 2 ^ n - 1 - bits b lo n

/-! ### Verdicts -/

/-- The refusals of decoding, each by the name 30_encoding.md gives it (R66 to R81). -/
inductive DecodeRefusal where
  /-- not one of the 21 forms (R81, D1) -/
  | notInScope
  /-- 0xF2 or 0xF3 before 0F 74/75/76 (R68) -/
  | noSuchRow
  /-- a segment-override prefix (R68, R70, R72, D7) -/
  | segmentOverride
  /-- a prefix byte is repeated (R68, D18) -/
  | redundantPrefix
  /-- REX.W = 1 on a legacy form (R68) -/
  | rexW
  /-- REX.R, or REX.B with mod = 3, on an MMX form (R68) -/
  | rexOnMmx
  /-- EVEX P0[3:2] not 00 or P1[2] not 1 (R72) -/
  | evexReservedBits
  /-- EVEX L'L = 11 (R72) -/
  | evexLlReserved
  /-- EVEX.z = 1 (R73) -/
  | evexZOnMaskDest
  /-- EVEX.b = 1 on VPCMPEQD with a register operand (R73) -/
  | evexBWithRegister
  /-- a stored R or R' bit of 0 on the opmask destination (R72) -/
  | evexROnMaskDest
  /-- outside 64-bit mode, an extension bit that would name a register above 7 (R76) -/
  | extBitOutsideMode64
  /-- 0x67 outside 64-bit mode (R66, D24) -/
  | addr16
  /-- more than 15 bytes (R78, D12) -/
  | tooLong
  deriving DecidableEq, Repr

/-- What the first missing byte of an incomplete instruction is (R81). -/
inductive Missing where
  /-- a byte of the prefixes or the opcode -/
  | opcode
  /-- the ModRM byte -/
  | modrm
  /-- the SIB byte -/
  | sib
  /-- a byte of the displacement -/
  | displacement
  deriving DecidableEq, Repr

/-- What decoding answers on a list of bytes. -/
inductive Decoded where
  /-- the first bytes are this instruction; `rest` follows it -/
  | instr (i : Instr) (rest : List Byte)
  /-- the bytes raise #UD by themselves (R156 item 2); apart from what raises it they are the form `i` after `extra`
  prefix bytes that do not belong to it -/
  | ud (i : Instr) (extra : Nat)
  /-- the model gives the bytes no meaning -/
  | refuse (r : DecodeRefusal)
  /-- the list ends before the instruction does, at the byte `next`, and does not yet decide that it is refused -/
  | more (next : Missing)
  deriving DecidableEq, Repr

/-- The first reason whose condition holds. -/
def firstRefusal : List (Bool × DecodeRefusal) → Option DecodeRefusal
  | [] => none
  | (c, r) :: rest => if c then some r else firstRefusal rest

/-- The answer where the list ends before the instruction, at the byte `next`: a refusal that the bytes so far decide,
whatever follows them, stands before the missing bytes (R81, R156 item 0; which name it then has:
notes/assumptions/31.md). -/
def moreUnless (next : Missing) (decided : List (Bool × DecodeRefusal)) : Decoded :=
  match firstRefusal decided with
  | some reason => .refuse reason
  | none => .more next

/-! ### Length (R78) -/

def Disp.len : Disp → Nat
  | .none => 0
  | .d8 _ => 1
  | .d32 _ => 4

/-- The bytes of SIB and displacement. -/
def MemOp.len : MemOp → Nat
  | .dispOnly _ => 4
  | .base _ d => d.len
  | .sib _ _ _ d => 1 + d.len
  | .sibNoBase _ _ _ => 5

/-- The bytes after ModRM. -/
def Rm.len {n : Nat} : Rm n → Nat
  | .reg _ => 0
  | .mem m => m.len

def RmBcst.len : RmBcst → Nat
  | .reg _ => 0
  | .mem m => m.len
  | .bcst m => m.len

/-- A legacy MMX form: prefixes, 0F, op, ModRM and what follows it. -/
def mmLen (p : LegacyPrefix) (src : Rm 8) : Nat := p.addr32.toNat + p.rex.toNat + 3 + src.len

/-- A legacy SSE2 form: the same with 0x66. -/
def xmmLen (p : LegacyPrefix) (src : Rm 16) : Nat := p.addr32.toNat + p.rex.toNat + 4 + src.len

/-- A VEX form: two or three prefix bytes, op, ModRM and what follows it. -/
def vexLen (p : VexPrefix) (src2 : Rm 16) : Nat := p.addr32.toNat + p.three.toNat + 4 + src2.len

/-- An EVEX form: four prefix bytes, op, ModRM and the `tail` bytes that follow it. -/
def evexLen (addr32 : Bool) (tail : Nat) : Nat := addr32.toNat + 6 + tail

/-- The instruction's length in bytes (R78). -/
def Instr.len : Instr → Nat
  | .pcmpeqbMm p _ src | .pcmpeqwMm p _ src | .pcmpeqdMm p _ src => mmLen p src
  | .pcmpeqbXmm p _ src | .pcmpeqwXmm p _ src | .pcmpeqdXmm p _ src => xmmLen p src
  | .vpcmpeqbXmm p _ _ src2 | .vpcmpeqwXmm p _ _ src2 | .vpcmpeqdXmm p _ _ src2
  | .vpcmpeqbYmm p _ _ src2 | .vpcmpeqwYmm p _ _ src2 | .vpcmpeqdYmm p _ _ src2 => vexLen p src2
  | .vpcmpeqdK128 a _ _ _ src2 | .vpcmpeqdK256 a _ _ _ src2 | .vpcmpeqdK512 a _ _ _ src2 => evexLen a src2.len
  | .vpcmpeqbK128 a _ _ _ src2 | .vpcmpeqbK256 a _ _ _ src2 | .vpcmpeqbK512 a _ _ _ src2
  | .vpcmpeqwK128 a _ _ _ src2 | .vpcmpeqwK256 a _ _ _ src2 | .vpcmpeqwK512 a _ _ _ src2 => evexLen a src2.len

/-! ### Prefixes and opcode -/

/-- The legacy prefix bytes of R67. -/
def isPrefix (b : Byte) : Bool :=
  b == 0x66 || b == 0x67 || b == 0xF0 || b == 0xF2 || b == 0xF3
    || b == 0x2E || b == 0x36 || b == 0x3E || b == 0x26 || b == 0x64 || b == 0x65

/-- R81 step 1: the leading prefix bytes, and what follows them. -/
def splitPrefixes : List Byte → List Byte × List Byte
  | [] => ([], [])
  | b :: bs => if isPrefix b then (b :: (splitPrefixes bs).1, (splitPrefixes bs).2) else ([], b :: bs)

/-- R81 step 2: in 64-bit mode, a REX byte 40 to 4F. -/
def splitRex (mode64 : Bool) : List Byte → Option Byte × List Byte
  | [] => (none, [])
  | b :: bs => if mode64 && bits b 4 4 == 4 then (some b, bs) else (none, b :: bs)

/-- A segment-override prefix is present (R67). -/
def hasSegment (P : List Byte) : Bool :=
  P.contains 0x2E || P.contains 0x36 || P.contains 0x3E || P.contains 0x26 || P.contains 0x64 || P.contains 0x65

/-- A prefix byte stands twice (R68, D18). -/
def hasRepeat : List Byte → Bool
  | [] => false
  | b :: bs => bs.contains b || hasRepeat bs

/-- The refusals that the prefix bytes alone decide, in every shape (R66, R68, R70, R72, D18). -/
def prefixRefusals (mode64 : Bool) (P : List Byte) : List (Bool × DecodeRefusal) :=
  [(hasSegment P, .segmentOverride), (hasRepeat P, .redundantPrefix), (P.contains 0x67 && !mode64, .addr16)]

/-- How many prefix bytes other than 0x67 stand before a VEX or EVEX prefix; any raises #UD (R70, R72, R81). -/
def strayPrefixes (P : List Byte) (rex : Option Byte) : Nat := (P.filter (· != 0x67)).length + rex.isSome.toNat

/-- The element width an opcode byte selects (R60). -/
inductive Elem where
  | byte
  | word
  | dword
  deriving DecidableEq, Repr

/-- The three opcode bytes in scope (R60). -/
def elemOf (op : Byte) : Option Elem :=
  if op = 0x74 then some .byte else if op = 0x75 then some .word else if op = 0x76 then some .dword else none

/-- The opcode byte of an element width (R60). -/
def Elem.opcode : Elem → Byte
  | .byte => 0x74
  | .word => 0x75
  | .dword => 0x76

/-! ### ModRM, SIB and displacement (R64, R65) -/

/-- A 32-bit displacement, least significant byte first. -/
def readD32 : List Byte → Option (BitVec 32 × List Byte)
  | b0 :: b1 :: b2 :: b3 :: bs =>
    some (BitVec.ofNat 32 (b0.toNat + 256 * b1.toNat + 65536 * b2.toNat + 16777216 * b3.toNat), bs)
  | _ => none

/-- The displacement that mod 0, 1 or 2 selects. -/
def readDisp (mod : Nat) (bs : List Byte) : Option (Disp × List Byte) :=
  if mod = 0 then some (.none, bs)
  else if mod = 1 then
    match bs with
    | b :: bs => some (.d8 b, bs)
    | [] => none
  else
    match readD32 bs with
    | some (d, bs) => some (.d32 d, bs)
    | none => none

/-- The memory operand after a ModRM byte with mod 0, 1 or 2; `x` and `b` are the extension bits Xb and Bb, 0 or 1. -/
def readMem (mod rm x b : Nat) (bs : List Byte) : Option (MemOp × List Byte) :=
  if rm = 4 then
    match bs with
    | [] => none
    | sib :: bs =>
      let idx := Fin.ofNat 16 (8 * x + bits sib 3 3)
      let scale := Fin.ofNat 4 (bits sib 6 2)
      if mod = 0 ∧ bits sib 0 3 = 5 then
        match readD32 bs with
        | some (d, bs) => some (.sibNoBase idx scale d, bs)
        | none => none
      else
        match readDisp mod bs with
        | some (d, bs) => some (.sib (Fin.ofNat 16 (8 * b + bits sib 0 3)) idx scale d, bs)
        | none => none
  else if mod = 0 ∧ rm = 5 then
    match readD32 bs with
    | some (d, bs) => some (.dispOnly d, bs)
    | none => none
  else
    match readDisp mod bs with
    | some (d, bs) => some (.base (Fin.ofNat 16 (8 * b + rm)) d, bs)
    | none => none

/-- The ModRM:r/m operand of a file of `n` registers; `reg` is the register number that mod = 3 names. -/
def readRm (n : Nat) [NeZero n] (modrm : Byte) (reg x b : Nat) (bs : List Byte) : Option (Rm n × List Byte) :=
  if bits modrm 6 2 = 3 then some (.reg (Fin.ofNat n reg), bs)
  else
    match readMem (bits modrm 6 2) (bits modrm 0 3) x b bs with
    | some (m, bs) => some (.mem m, bs)
    | none => none

/-- The first missing byte after a ModRM byte with mod 0, 1 or 2, where the bytes `bs` do not hold all of its operand. -/
def missingAfter (modrm : Byte) (bs : List Byte) : Missing :=
  if bits modrm 0 3 = 4 ∧ bs = [] then .sib else .displacement

/-- How many bytes follow ModRM at least, by ModRM and the SIB byte if it is there (R65, R78). -/
def tailLen (modrm : Byte) (sib : Option Byte) : Nat :=
  if bits modrm 6 2 = 3 then 0
  else
    (if bits modrm 0 3 = 4 then 1 else 0)
      + (if bits modrm 6 2 = 1 then 1
        else if bits modrm 6 2 = 2 ∨ bits modrm 0 3 = 5
            ∨ (bits modrm 0 3 = 4 ∧ sib.any (fun b => bits b 0 3 == 5) = true) then 4
        else 0)

/-- With `before` bytes before ModRM, the bytes so far decide that the instruction has more than 15 (R78). -/
def lengthDecided (before : Nat) (modrm : Byte) (bs : List Byte) : Bool :=
  decide (15 < before + 1 + tailLen modrm bs.head?)

/-! ### The legacy shape (R68) -/

/-- The MMX rows 1, 3, 5. -/
def mmInstr : Elem → LegacyPrefix → Fin 8 → Rm 8 → Instr
  | .byte => .pcmpeqbMm
  | .word => .pcmpeqwMm
  | .dword => .pcmpeqdMm

/-- The SSE2 rows 2, 4, 6. -/
def xmmInstr : Elem → LegacyPrefix → Fin 16 → Rm 16 → Instr
  | .byte => .pcmpeqbXmm
  | .word => .pcmpeqwXmm
  | .dword => .pcmpeqdXmm

/-- The r/m operand and the instruction of a legacy form, its prefix bytes admitted; `rexBits` holds the REX byte or 0. -/
def decodeLegacyOperands (P : List Byte) (rex : Bool) (rexBits : Byte) (e : Elem) (modrm : Byte) (bs : List Byte) :
    Decoded :=
  let p : LegacyPrefix := { addr32 := P.contains 0x67, rex := rex }
  let lock (i : Instr) (rest : List Byte) : Decoded := if P.contains 0xF0 then .ud i 1 else .instr i rest
  if P.contains 0x66 then
    match readRm 16 modrm (8 * bits rexBits 0 1 + bits modrm 0 3) (bits rexBits 1 1) (bits rexBits 0 1) bs with
    | some (src, rest) =>
      lock (xmmInstr e p (Fin.ofNat 16 (8 * bits rexBits 2 1 + bits modrm 3 3)) src) rest
    | none => .more (missingAfter modrm bs)
  else if bits modrm 6 2 = 3 ∧ bits rexBits 0 1 = 1 then .refuse .rexOnMmx
  else
    match readRm 8 modrm (bits modrm 0 3) (bits rexBits 1 1) (bits rexBits 0 1) bs with
    | some (src, rest) => lock (mmInstr e p (Fin.ofNat 8 (bits modrm 3 3)) src) rest
    | none => .more (missingAfter modrm bs)

/-- The refusals of the legacy shape that stand before ModRM, in the order of R68 (`rexBits` holds the REX byte or 0). -/
def legacyRefusals (mode64 : Bool) (P : List Byte) (rexBits : Byte) : List (Bool × DecodeRefusal) :=
  [(P.contains 0xF2 || P.contains 0xF3, .noSuchRow), (hasSegment P, .segmentOverride), (hasRepeat P, .redundantPrefix),
    (bits rexBits 3 1 == 1, .rexW), (!P.contains 0x66 && bits rexBits 2 1 == 1, .rexOnMmx),
    (P.contains 0x67 && !mode64, .addr16)]

/-- The bytes after 0F (R68). -/
def decodeLegacy (mode64 : Bool) (P : List Byte) (rex : Option Byte) : List Byte → Decoded
  | [] => moreUnless .opcode (legacyRefusals mode64 P (rex.getD 0))
  | op :: bs =>
    match elemOf op with
    | none => .refuse .notInScope
    | some e =>
      match firstRefusal (legacyRefusals mode64 P (rex.getD 0)) with
      | some reason => .refuse reason
      | none =>
        match bs with
        | [] => .more .modrm
        | modrm :: bs => decodeLegacyOperands P rex.isSome (rex.getD 0) e modrm bs

/-! ### The VEX shape (R69, R70) -/

/-- The fields of a VEX prefix: extension bits after complementing, opcode map, vvvv after complementing, L and pp. -/
structure VexFields where
  three : Bool
  r : Nat
  x : Nat
  b : Nat
  map : Nat
  vvvv : Nat
  l : Nat
  pp : Nat
  deriving DecidableEq, Repr

/-- The two-byte form C5 v0 (R69). -/
def vexTwo (v0 : Byte) : VexFields where
  three := false
  r := barred v0 7 1
  x := 0
  b := 0
  map := 1
  vvvv := barred v0 3 4
  l := bits v0 2 1
  pp := bits v0 0 2

/-- The three-byte form C4 v1 v2 (R69); W, bit 7 of v2, is not looked at (WIG). -/
def vexThree (v1 v2 : Byte) : VexFields where
  three := true
  r := barred v1 7 1
  x := barred v1 6 1
  b := barred v1 5 1
  map := bits v1 0 5
  vvvv := barred v2 3 4
  l := bits v2 2 1
  pp := bits v2 0 2

/-- Rows 7 to 12, by element width and L. -/
def vexInstr : Elem → Nat → VexPrefix → Fin 16 → Fin 16 → Rm 16 → Instr
  | .byte, 0 => .vpcmpeqbXmm
  | .word, 0 => .vpcmpeqwXmm
  | .dword, 0 => .vpcmpeqdXmm
  | .byte, _ => .vpcmpeqbYmm
  | .word, _ => .vpcmpeqwYmm
  | .dword, _ => .vpcmpeqdYmm

/-- The refusals of the VEX shape that stand before ModRM, apart from the opcode (R70, R76). -/
def vexRefusals (mode64 : Bool) (P : List Byte) (f : VexFields) : List (Bool × DecodeRefusal) :=
  [(f.pp != 1 || f.map != 1, .notInScope), (hasSegment P, .segmentOverride), (hasRepeat P, .redundantPrefix),
    (!mode64 && (f.b == 1 || decide (8 ≤ f.vvvv)), .extBitOutsideMode64), (P.contains 0x67 && !mode64, .addr16)]

/-- The opcode byte and what follows it, after a VEX prefix (R70). -/
def decodeVex (mode64 : Bool) (P : List Byte) (rex : Option Byte) (f : VexFields) : List Byte → Decoded
  | [] => moreUnless .opcode (vexRefusals mode64 P f)
  | op :: bs =>
    match elemOf op with
    | none => .refuse .notInScope
    | some e =>
      match firstRefusal (vexRefusals mode64 P f) with
      | some reason => .refuse reason
      | none =>
        match bs with
        | [] => .more .modrm
        | modrm :: bs =>
          match readRm 16 modrm (8 * f.b + bits modrm 0 3) f.x f.b bs with
          | none =>
            moreUnless (missingAfter modrm bs)
              [(lengthDecided (P.length + rex.isSome.toNat + f.three.toNat + 3) modrm bs, .tooLong)]
          | some (src2, rest) =>
            let i := vexInstr e f.l { addr32 := P.contains 0x67, three := f.three }
              (Fin.ofNat 16 (8 * f.r + bits modrm 3 3)) (Fin.ofNat 16 f.vvvv) src2
            if strayPrefixes P rex = 0 then .instr i rest else .ud i (strayPrefixes P rex)

/-! ### The EVEX shape (R71, R72) -/

/-- Rows 13 to 15, by L'L. -/
def evexDInstr : Nat → Bool → Fin 8 → Option (Fin 8) → Fin 32 → RmBcst → Instr
  | 0 => .vpcmpeqdK128
  | 1 => .vpcmpeqdK256
  | _ => .vpcmpeqdK512

/-- Rows 16 to 18, by L'L. -/
def evexBInstr : Nat → Bool → Fin 8 → Option (Fin 8) → Fin 32 → Rm 32 → Instr
  | 0 => .vpcmpeqbK128
  | 1 => .vpcmpeqbK256
  | _ => .vpcmpeqbK512

/-- Rows 19 to 21, by L'L. -/
def evexWInstr : Nat → Bool → Fin 8 → Option (Fin 8) → Fin 32 → Rm 32 → Instr
  | 0 => .vpcmpeqwK128
  | 1 => .vpcmpeqwK256
  | _ => .vpcmpeqwK512

/-- The r/m operand of VPCMPEQD from the plain one and EVEX.b (R72). -/
def broadcastRm (b : Bool) : Rm 32 → RmBcst
  | .reg r => .reg r
  | .mem m => if b then .bcst m else .mem m

/-- The writemask that EVEX.aaa names: 000 is "no writemask" (R73). -/
def writemaskField (aaa : Nat) : Option (Fin 8) := if aaa = 0 then none else some (Fin.ofNat 8 aaa)

/-- The instruction of an EVEX form from its fields and its r/m operand (R72). -/
def evexInstr (addr32 : Bool) (p1 p2 modrm : Byte) (e : Elem) (src2 : Rm 32) : Instr :=
  let ll := bits p2 5 2
  let dst := Fin.ofNat 8 (bits modrm 3 3)
  let mask := writemaskField (bits p2 0 3)
  let src1 := Fin.ofNat 32 (16 * barred p2 3 1 + barred p1 3 4)
  match e with
  | .byte => evexBInstr ll addr32 dst mask src1 src2
  | .word => evexWInstr ll addr32 dst mask src1 src2
  | .dword => evexDInstr ll addr32 dst mask src1 (broadcastRm (bits p2 4 1 == 1) src2)

/-- The refusals of the EVEX shape, apart from the opcode; `roundReg` says that EVEX.b = 1 stands with op 76 and a register
operand. R72 and R76 name two refusals for a stored R' of 0 outside 64-bit mode and give no order: the model answers
`evexROnMaskDest` (DESIGN CHOICE, notes/assumptions/31.md). -/
def evexRefusals (mode64 : Bool) (P : List Byte) (p0 p1 p2 : Byte) (roundReg : Bool) : List (Bool × DecodeRefusal) :=
  [(bits p0 2 2 != 0 || bits p1 2 1 != 1, .evexReservedBits), (bits p0 0 2 != 1 || bits p1 0 2 != 1, .notInScope),
    (hasSegment P, .segmentOverride), (hasRepeat P, .redundantPrefix), (bits p2 5 2 == 3, .evexLlReserved),
    (bits p2 7 1 == 1, .evexZOnMaskDest), (roundReg, .evexBWithRegister),
    (bits p0 7 1 == 0 || bits p0 4 1 == 0, .evexROnMaskDest),
    (!mode64 && (barred p0 5 1 == 1 || decide (8 ≤ 16 * barred p2 3 1 + barred p1 3 4)), .extBitOutsideMode64),
    (P.contains 0x67 && !mode64, .addr16)]

/-- EVEX bytes with no refusal that raise #UD by themselves (R72, R154, R155): W = 1 with op 76, b = 1 with 74 or 75. -/
def evexUd (e : Elem) (p1 p2 : Byte) : Bool :=
  match e with
  | .dword => bits p1 7 1 == 1
  | .byte | .word => bits p2 4 1 == 1

/-- The opcode byte and what follows it, after the EVEX prefix bytes P0, P1, P2 (R72). -/
def decodeEvex (mode64 : Bool) (P : List Byte) (rex : Option Byte) (p0 p1 p2 : Byte) : List Byte → Decoded
  | [] => moreUnless .opcode (evexRefusals mode64 P p0 p1 p2 false)
  | op :: bs =>
    match elemOf op with
    | none => .refuse (if bits p0 2 2 != 0 || bits p1 2 1 != 1 then .evexReservedBits else .notInScope)
    | some e =>
      match firstRefusal (evexRefusals mode64 P p0 p1 p2
          (e == .dword && bits p2 4 1 == 1 && bs.head?.any (fun modrm => bits modrm 6 2 == 3))) with
      | some reason => .refuse reason
      | none =>
        match bs with
        | [] => .more .modrm
        | modrm :: bs =>
          match readRm 32 modrm (16 * barred p0 6 1 + 8 * barred p0 5 1 + bits modrm 0 3) (barred p0 6 1)
              (barred p0 5 1) bs with
          | none =>
            moreUnless (missingAfter modrm bs) [(lengthDecided (P.length + rex.isSome.toNat + 5) modrm bs, .tooLong)]
          | some (src2, rest) =>
            let i := evexInstr (P.contains 0x67) p1 p2 modrm e src2
            if strayPrefixes P rex = 0 && !evexUd e p1 p2 then .instr i rest else .ud i (strayPrefixes P rex)

/-! ### The decode procedure (R81) -/

/-- Outside 64-bit mode the bytes C5, C4 and 62 open a prefix only if bits 7:6 of the next byte are 11 (R76). -/
def opensVex (mode64 : Bool) (next : Byte) : Bool := mode64 || bits next 6 2 == 3

/-- R81 step 3: the shape, from the first byte after the prefixes. Where a byte of a VEX or EVEX prefix is missing, one that
refuses nothing stands for it: 79 for v2, 7D for P1, 08 for P2. -/
def decodeShape (mode64 : Bool) (P : List Byte) (rex : Option Byte) : List Byte → Decoded
  | [] => moreUnless .opcode (prefixRefusals mode64 P)
  | b :: bs =>
    if b = 0x0F then decodeLegacy mode64 P rex bs
    else if b = 0xC5 then
      match bs with
      | [] => moreUnless .opcode (prefixRefusals mode64 P)
      | v0 :: bs => if opensVex mode64 v0 then decodeVex mode64 P rex (vexTwo v0) bs else .refuse .notInScope
    else if b = 0xC4 then
      match bs with
      | [] => moreUnless .opcode (prefixRefusals mode64 P)
      | v1 :: bs =>
        if opensVex mode64 v1 then
          match bs with
          | [] => moreUnless .opcode (vexRefusals mode64 P (vexThree v1 0x79))
          | v2 :: bs => decodeVex mode64 P rex (vexThree v1 v2) bs
        else .refuse .notInScope
    else if b = 0x62 then
      match bs with
      | [] => moreUnless .opcode (prefixRefusals mode64 P)
      | p0 :: bs =>
        if opensVex mode64 p0 then
          match bs with
          | [] => moreUnless .opcode (evexRefusals mode64 P p0 0x7D 0x08 false)
          | [p1] => moreUnless .opcode (evexRefusals mode64 P p0 p1 0x08 false)
          | p1 :: p2 :: bs => decodeEvex mode64 P rex p0 p1 p2 bs
        else .refuse .notInScope
    else .refuse .notInScope

/-- Decoding, total on any bytes (R81). More than 15 bytes are refused (R78). -/
def decode (mode64 : Bool) (bs : List Byte) : Decoded :=
  let (P, r) := splitPrefixes bs
  let (rex, r) := splitRex mode64 r
  match decodeShape mode64 P rex r with
  | .more next => if 15 ≤ bs.length then .refuse .tooLong else .more next
  | .ud i extra => if 15 < i.len + extra then .refuse .tooLong else .ud i extra
  | d => d

/-! ### The encoder -/

/-- A byte from its fields at bits 7:6, 5:3 and 2:0: a ModRM or a SIB byte (R64, R65). -/
def fieldByte (hi mid lo : Nat) : Byte := BitVec.ofNat 8 (64 * hi + 8 * mid + lo)

/-- Four bytes, least significant first (R65). -/
def d32Bytes (d : BitVec 32) : List Byte :=
  [BitVec.ofNat 8 d.toNat, BitVec.ofNat 8 (d.toNat / 256), BitVec.ofNat 8 (d.toNat / 65536),
    BitVec.ofNat 8 (d.toNat / 16777216)]

def Disp.bytes : Disp → List Byte
  | .none => []
  | .d8 d => [d]
  | .d32 d => d32Bytes d

/-- The ModRM.mod value of a displacement. -/
def Disp.mod : Disp → Nat
  | .none => 0
  | .d8 _ => 1
  | .d32 _ => 2

/-- ModRM (with the given reg field), SIB and displacement of a memory operand. -/
def MemOp.bytes (reg : Nat) : MemOp → List Byte
  | .dispOnly d => fieldByte 0 reg 5 :: d32Bytes d
  | .base b d => fieldByte d.mod reg (b.val % 8) :: d.bytes
  | .sib b idx scale d => fieldByte d.mod reg 4 :: fieldByte scale.val (idx.val % 8) (b.val % 8) :: d.bytes
  | .sibNoBase idx scale d => fieldByte 0 reg 4 :: fieldByte scale.val (idx.val % 8) 5 :: d32Bytes d

/-- The extension bit of the index register. -/
def MemOp.xBit : MemOp → Nat
  | .sib _ idx _ _ | .sibNoBase idx _ _ => idx.val / 8
  | _ => 0

/-- The extension bit of the base register. -/
def MemOp.bBit : MemOp → Nat
  | .base b _ | .sib b _ _ _ => b.val / 8
  | _ => 0

/-- ModRM and what follows it. -/
def Rm.bytes (reg : Nat) {n : Nat} : Rm n → List Byte
  | .reg r => [fieldByte 3 reg (r.val % 8)]
  | .mem m => m.bytes reg

/-- The X bit: of a register operand, bit 4 of its number (R72); of a memory operand, the index's. -/
def Rm.xBit {n : Nat} : Rm n → Nat
  | .reg r => r.val / 16
  | .mem m => m.xBit

/-- The B bit: of a register operand, bit 3 of its number; of a memory operand, the base's. -/
def Rm.bBit {n : Nat} : Rm n → Nat
  | .reg r => r.val / 8 % 2
  | .mem m => m.bBit

/-- 0x67 if the address-size prefix is there. -/
def addrPrefix (addr32 : Bool) : List Byte := if addr32 then [0x67] else []

/-- A legacy form from its REX byte on, with the bits `x` and `b` in REX (R67). -/
def legacyBody (e : Elem) (rex : Bool) (dst : Nat) {n : Nat} (src : Rm n) (x b : Nat) : List Byte :=
  (if rex then [BitVec.ofNat 8 (0x40 + 4 * (dst / 8) + 2 * x + b)] else []) ++ [0x0F, e.opcode] ++ src.bytes (dst % 8)

/-- A VEX form from C5 or C4 on, with the bits `w`, `x` and `b` in a three-byte prefix (R69). -/
def vexBody (e : Elem) (l : Nat) (three : Bool) (dst src1 : Fin 16) (src2 : Rm 16) (w x b : Nat) : List Byte :=
  let tail := 8 * (15 - src1.val) + 4 * l + 1
  (if three then
      [0xC4, BitVec.ofNat 8 (128 * (1 - dst.val / 8) + 64 * (1 - x) + 32 * (1 - b) + 1), BitVec.ofNat 8 (128 * w + tail)]
    else [0xC5, BitVec.ofNat 8 (128 * (1 - dst.val / 8) + tail)])
    ++ [e.opcode] ++ src2.bytes (dst.val % 8)

/-- An EVEX form from 62 on, with the bits `w`, `x` and `b` (R71); z = 0, and `bc` is EVEX.b. -/
def evexBody (e : Elem) (ll bc : Nat) (dst : Fin 8) (mask : Option (Fin 8)) (src1 : Fin 32) (src2 : Rm 32) (w x b : Nat) :
    List Byte :=
  [0x62, BitVec.ofNat 8 (128 + 64 * (1 - x) + 32 * (1 - b) + 16 + 1),
      BitVec.ofNat 8 (128 * w + 8 * (15 - src1.val % 16) + 4 + 1),
      BitVec.ofNat 8 (32 * ll + 16 * bc + 8 * (1 - src1.val / 16) + (mask.getD 0).val), e.opcode]
    ++ src2.bytes dst.val

/-- A legacy form; `row66` says whether 0x66 selects its row (R60, R67). -/
def encodeLegacy (row66 : Bool) (e : Elem) (p : LegacyPrefix) (dst : Nat) {n : Nat} (src : Rm n) : List Byte :=
  addrPrefix p.addr32 ++ (if row66 then [0x66] else []) ++ legacyBody e p.rex dst src src.xBit src.bBit

/-- A VEX form; W = 0. -/
def encodeVex (e : Elem) (l : Nat) (p : VexPrefix) (dst src1 : Fin 16) (src2 : Rm 16) : List Byte :=
  addrPrefix p.addr32 ++ vexBody e l p.three dst src1 src2 0 src2.xBit src2.bBit

/-- An EVEX form; W = 0, and `bc` is EVEX.b. -/
def encodeEvex (e : Elem) (ll bc : Nat) (addr32 : Bool) (dst : Fin 8) (mask : Option (Fin 8)) (src1 : Fin 32)
    (src2 : Rm 32) : List Byte :=
  addrPrefix addr32 ++ evexBody e ll bc dst mask src1 src2 0 src2.xBit src2.bBit

/-- The plain r/m operand and the EVEX.b bit of VPCMPEQD's. -/
def RmBcst.split : RmBcst → Rm 32 × Nat
  | .reg r => (.reg r, 0)
  | .mem m => (.mem m, 0)
  | .bcst m => (.mem m, 1)

/-- The bytes of a well-formed instruction. -/
def encode : Instr → List Byte
  | .pcmpeqbMm p dst src => encodeLegacy false .byte p dst.val src
  | .pcmpeqwMm p dst src => encodeLegacy false .word p dst.val src
  | .pcmpeqdMm p dst src => encodeLegacy false .dword p dst.val src
  | .pcmpeqbXmm p dst src => encodeLegacy true .byte p dst.val src
  | .pcmpeqwXmm p dst src => encodeLegacy true .word p dst.val src
  | .pcmpeqdXmm p dst src => encodeLegacy true .dword p dst.val src
  | .vpcmpeqbXmm p dst src1 src2 => encodeVex .byte 0 p dst src1 src2
  | .vpcmpeqwXmm p dst src1 src2 => encodeVex .word 0 p dst src1 src2
  | .vpcmpeqdXmm p dst src1 src2 => encodeVex .dword 0 p dst src1 src2
  | .vpcmpeqbYmm p dst src1 src2 => encodeVex .byte 1 p dst src1 src2
  | .vpcmpeqwYmm p dst src1 src2 => encodeVex .word 1 p dst src1 src2
  | .vpcmpeqdYmm p dst src1 src2 => encodeVex .dword 1 p dst src1 src2
  | .vpcmpeqdK128 a dst mask src1 src2 => encodeEvex .dword 0 src2.split.2 a dst mask src1 src2.split.1
  | .vpcmpeqdK256 a dst mask src1 src2 => encodeEvex .dword 1 src2.split.2 a dst mask src1 src2.split.1
  | .vpcmpeqdK512 a dst mask src1 src2 => encodeEvex .dword 2 src2.split.2 a dst mask src1 src2.split.1
  | .vpcmpeqbK128 a dst mask src1 src2 => encodeEvex .byte 0 0 a dst mask src1 src2
  | .vpcmpeqbK256 a dst mask src1 src2 => encodeEvex .byte 1 0 a dst mask src1 src2
  | .vpcmpeqbK512 a dst mask src1 src2 => encodeEvex .byte 2 0 a dst mask src1 src2
  | .vpcmpeqwK128 a dst mask src1 src2 => encodeEvex .word 0 0 a dst mask src1 src2
  | .vpcmpeqwK256 a dst mask src1 src2 => encodeEvex .word 1 0 a dst mask src1 src2
  | .vpcmpeqwK512 a dst mask src1 src2 => encodeEvex .word 2 0 a dst mask src1 src2

/-! ### Every spelling -/

/-- The X bit is read: of the registers only those of a 32-register file use it (R72), and an index does (R65). -/
def Rm.usesX {n : Nat} : Rm n → Bool
  | .reg _ => decide (16 < n)
  | .mem (.sib ..) | .mem (.sibNoBase ..) => true
  | .mem (.base ..) | .mem (.dispOnly _) => false

/-- The B bit is read: by a register operand and by a base (R65). -/
def Rm.usesB {n : Nat} : Rm n → Bool
  | .reg _ | .mem (.base ..) | .mem (.sib ..) => true
  | .mem (.dispOnly _) | .mem (.sibNoBase ..) => false

/-- The values a bit may have: either, if it is free. -/
def bitChoices (free : Bool) (bit : Nat) : List Nat := if free then [0, 1] else [bit]

/-- The X and B bits that may stand with an r/m operand: a bit that is not read has either value in 64-bit mode (D19) and is
not extended outside it (R76). -/
def Rm.extBits (mode64 : Bool) {n : Nat} (src : Rm n) : List (Nat × Nat) :=
  (bitChoices (mode64 && !src.usesX) src.xBit).flatMap fun x =>
    (bitChoices (mode64 && !src.usesB) src.bBit).map fun b => (x, b)

/-- Every spelling of a legacy form from its REX byte on. -/
def legacyBodies (mode64 : Bool) (e : Elem) (p : LegacyPrefix) (dst : Nat) {n : Nat} (src : Rm n) : List (List Byte) :=
  (src.extBits mode64).map fun xb => legacyBody e p.rex dst src xb.1 xb.2

/-- Every spelling of a VEX form from C5 or C4 on: W is not read (R70). -/
def vexBodies (mode64 : Bool) (e : Elem) (l : Nat) (p : VexPrefix) (dst src1 : Fin 16) (src2 : Rm 16) :
    List (List Byte) :=
  (src2.extBits mode64).flatMap fun xb => [0, 1].map fun w => vexBody e l p.three dst src1 src2 w xb.1 xb.2

/-- Every spelling of an EVEX form from 62 on: W is 0 with the opcode 76 and not read with 74 and 75 (R72). -/
def evexBodies (mode64 : Bool) (e : Elem) (ll bc : Nat) (dst : Fin 8) (mask : Option (Fin 8)) (src1 : Fin 32)
    (src2 : Rm 32) : List (List Byte) :=
  (src2.extBits mode64).flatMap fun xb =>
    (bitChoices (e != .dword) 0).map fun w => evexBody e ll bc dst mask src1 src2 w xb.1 xb.2

/-- Every spelling of an instruction from the byte after its legacy prefixes on. -/
def Instr.bodies (mode64 : Bool) : Instr → List (List Byte)
  | .pcmpeqbMm p dst src => legacyBodies mode64 .byte p dst.val src
  | .pcmpeqwMm p dst src => legacyBodies mode64 .word p dst.val src
  | .pcmpeqdMm p dst src => legacyBodies mode64 .dword p dst.val src
  | .pcmpeqbXmm p dst src => legacyBodies mode64 .byte p dst.val src
  | .pcmpeqwXmm p dst src => legacyBodies mode64 .word p dst.val src
  | .pcmpeqdXmm p dst src => legacyBodies mode64 .dword p dst.val src
  | .vpcmpeqbXmm p dst src1 src2 => vexBodies mode64 .byte 0 p dst src1 src2
  | .vpcmpeqwXmm p dst src1 src2 => vexBodies mode64 .word 0 p dst src1 src2
  | .vpcmpeqdXmm p dst src1 src2 => vexBodies mode64 .dword 0 p dst src1 src2
  | .vpcmpeqbYmm p dst src1 src2 => vexBodies mode64 .byte 1 p dst src1 src2
  | .vpcmpeqwYmm p dst src1 src2 => vexBodies mode64 .word 1 p dst src1 src2
  | .vpcmpeqdYmm p dst src1 src2 => vexBodies mode64 .dword 1 p dst src1 src2
  | .vpcmpeqdK128 _ dst mask src1 src2 => evexBodies mode64 .dword 0 src2.split.2 dst mask src1 src2.split.1
  | .vpcmpeqdK256 _ dst mask src1 src2 => evexBodies mode64 .dword 1 src2.split.2 dst mask src1 src2.split.1
  | .vpcmpeqdK512 _ dst mask src1 src2 => evexBodies mode64 .dword 2 src2.split.2 dst mask src1 src2.split.1
  | .vpcmpeqbK128 _ dst mask src1 src2 => evexBodies mode64 .byte 0 0 dst mask src1 src2
  | .vpcmpeqbK256 _ dst mask src1 src2 => evexBodies mode64 .byte 1 0 dst mask src1 src2
  | .vpcmpeqbK512 _ dst mask src1 src2 => evexBodies mode64 .byte 2 0 dst mask src1 src2
  | .vpcmpeqwK128 _ dst mask src1 src2 => evexBodies mode64 .word 0 0 dst mask src1 src2
  | .vpcmpeqwK256 _ dst mask src1 src2 => evexBodies mode64 .word 1 0 dst mask src1 src2
  | .vpcmpeqwK512 _ dst mask src1 src2 => evexBodies mode64 .word 2 0 dst mask src1 src2

/-! ### The host's words -/

/-- The first `n` bytes of a number written with its first byte highest, as the opcode table writes a pattern (R82). -/
def bigEndianBytes (w : Nat) : Nat → List Byte
  | 0 => []
  | n + 1 => BitVec.ofNat 8 (w / 2 ^ (8 * n)) :: bigEndianBytes w n

/-- The 15 bytes that hold the `nbits` bits of `w`, first pattern byte first, and zeros after them (R82, R78). -/
def tableBytes (nbits w : Nat) : List Byte := (bigEndianBytes w (nbits / 8) ++ List.replicate 15 0).take 15

/-- The instruction the decoder reads, in 64-bit mode, from a word of the opcode table (R82). -/
def decodeTableWord (nbits w : Nat) : Option Instr :=
  match decode true (tableBytes nbits w) with
  | .instr i _ => some i
  | _ => none

end Sys2Proof
end

