-- ==== Sys2Proof/Machine/State.lean ====
section
/-! DEFINITION. The machine's state as plain data, every piece of it that the spec names (10_state.md, 20_memory.md,
00_scope.md R6 to R10, 70_reset_and_hazards.md R184); the ways a step can stop; the state of a launch. -/

namespace Sys2Proof.Machine

/-- Memory: the bytes that differ from what an unlisted address reads as, by strictly rising address (R28, R40). -/
structure Memory where
  cells : List Host.Cell
  deriving DecidableEq, Repr

/-- An interval of readable ordinary memory, `size` bytes from `base`: the launch's `Accessible` is a list of them (R46). -/
structure Region where
  base : Nat
  size : Nat
  deriving DecidableEq, Repr

/-- The machine. Everything but `reads` is the spec's own; the note of each field names its rule. -/
structure State where
  /-- launch configuration (R6 to R9, R40, R153) -/
  cfg : Config
  /-- instruction pointer (R21) -/
  pc : Addr
  /-- general registers RAX, RCX, RDX, RBX, RSP, RBP, RSI, RDI, R8 to R15 (R20) -/
  x : Vector Addr 16
  /-- MMX registers MM0 to MM7 (R23) -/
  mm : Vector Mm 8
  /-- vector registers ZMM0 to ZMM31; XMM and YMM are their low bits (R24) -/
  zmm : Vector Zmm 32
  /-- opmask registers K0 to K7 (R25) -/
  k : Vector Opmask 8
  /-- the flags register EFLAGS/RFLAGS (R22, R26) -/
  eflags : BitVec 64
  /-- the SIMD control and status register (R22) -/
  mxcsr : BitVec 32
  /-- control register CR0: EM, TS, AM (R26) -/
  cr0 : BitVec 64
  /-- control register CR4: OSFXSR, OSXSAVE (R26) -/
  cr4 : BitVec 64
  /-- extended control register XCR0: the enabled state components (R26) -/
  xcr0 : BitVec 64
  /-- current privilege level, 0 to 3 (R44, R161) -/
  cpl : BitVec 2
  /-- x87 top-of-stack field (R27) -/
  x87Top : BitVec 3
  /-- the eight x87 tag fields, 00 for valid (R27) -/
  x87Tags : Vector (BitVec 2) 8
  /-- bits 79:64 of the eight x87 data registers, whose low 64 bits are MM0 to MM7 (R27) -/
  x87Upper : Vector (BitVec 16) 8
  /-- memory (R28, R40) -/
  mem : Memory
  /-- the launch's `Accessible` (R46) -/
  accessible : List Region
  /-- the launch's device memory, never `Accessible` (R48, R163) -/
  devices : List Region
  /-- the launch admits other writers of memory: operand reads draw from the oracle (R49) -/
  otherWriters : Bool
  /-- the model's own: how many operand reads have been made, so that every read draws its own bytes (R49) -/
  reads : Nat
  /-- `end_addr` of the launch (R184) -/
  endAddr : Option Addr
  deriving DecidableEq, Repr

/-- A raised exception: the terminal outcome Fault(E, info, pc) (R151, R157). Each carries the pc of the faulting
instruction; the state is the one before the step. Ending the run where a processor would enter a handler is SAFE: nothing
is claimed of what follows. -/
inductive Fault where
  /-- #UD, vector 6: bytes that raise it by themselves, an absent CPUID feature or a state class not enabled. Raised by the
  fetch (R156 item 2) and by every form (R152 to R155). SAFE. -/
  | ud (pc : Addr)
  /-- #NM, vector 7: CR0.TS = 1. Raised by every form (R152 to R154). SAFE. -/
  | nm (pc : Addr)
  /-- #SS(0), vector 12: a non-canonical memory operand addressed through SS. Raised by every form (R46). SAFE. -/
  | ss (pc : Addr)
  /-- #GP(0), vector 13: a non-canonical memory operand in another segment, or a legacy SSE operand not 16-byte aligned.
  Raised by every form (R44, R46). SAFE. -/
  | gp (pc : Addr)
  /-- #PF, vector 14: a byte not accessible, at linear address `addr`. Raised by the fetch (R81) and by every form (R46).
  SAFE; where a writemask would suppress it on a processor, an extra fault (R55). -/
  | pf (addr pc : Addr)
  /-- #MF, vector 16: a pending x87 exception. Raised by the MMX forms (R153). SAFE. -/
  | mf (pc : Addr)
  /-- #AC(0), vector 17: a misaligned m64 with alignment checking on. Raised by the MMX forms (R44). SAFE. -/
  | ac (pc : Addr)
  deriving DecidableEq, Repr

/-- The model gives the step no meaning (R13, R184): no claim holds of it, so every one is SAFE. -/
inductive Refusal where
  /-- exec has no meaning for the instruction. No arm of this model answers it. SAFE. -/
  | notModelled (mnemonic : String)
  /-- the bytes at pc are refused in decoding. Raised by the fetch (R66 to R81). SAFE. -/
  | undecodable (reason : DecodeRefusal)
  /-- the instruction would pass the top of the address space. Raised by the fetch and by every form (R21, D12). SAFE. -/
  | pcWrap
  /-- a misaligned VEX or EVEX memory operand with alignment checking on. Raised by those forms (R44, D6). SAFE. -/
  | alignmentCheckUnmodelled
  /-- a memory operand that touches device memory, which the spec gives no meaning. Raised by every form (R48, R163, U14 of
  93_implementation_defined.md). SAFE. -/
  | deviceMemory
  deriving DecidableEq, Repr

/-- The machine right after reset, as a launch (R31, R180): the usual configuration of 95_test_vectors.md, with the control
registers as R181 says system software leaves them and not at the reset vector; every byte of the address space accessible,
no device, no other writer, no end address. The values the spec does not give are in notes/assumptions. -/
def State.reset : State where
  cfg := Config.usual
  pc := 0
  x := Vector.replicate 16 0
  mm := Vector.replicate 8 0
  zmm := Vector.replicate 32 0
  k := Vector.replicate 8 0
  eflags := 2
  mxcsr := 0x1F80
  cr0 := 0x60000010
  cr4 := 0x40200
  xcr0 := 0xE7
  cpl := 0
  x87Top := 0
  x87Tags := Vector.replicate 8 1
  x87Upper := Vector.replicate 8 0
  mem := { cells := [] }
  accessible := [{ base := 0, size := 2 ^ 64 }]
  devices := []
  otherWriters := false
  reads := 0
  endAddr := none

end Sys2Proof.Machine
end

