-- ==== Sys2Proof/Machine/Flags.lean ====
section
/-! DEFINITION. The status and control bits that a form in scope consults (R26), and the parameters of the spec they stand
for: `cfg.ts`, `cfg.os_enabled` and `cfg.ac_checking` (R7, R44, R152 to R154). No form writes any of them, nor a flag
(R22). -/

namespace Sys2Proof.Machine

/-- CR0.EM, bit 2 (R26). -/
def State.em (s : State) : Bool := s.cr0.getLsbD 2

/-- `cfg.ts`: CR0.TS, bit 3 (R26). -/
def State.ts (s : State) : Bool := s.cr0.getLsbD 3

/-- CR0.AM, bit 18 (R26). -/
def State.am (s : State) : Bool := s.cr0.getLsbD 18

/-- EFLAGS.AC, bit 18 (R26). -/
def State.acFlag (s : State) : Bool := s.eflags.getLsbD 18

/-- CR4.OSFXSR, bit 9 (R26). -/
def State.osfxsr (s : State) : Bool := s.cr4.getLsbD 9

/-- CR4.OSXSAVE, bit 18 (R26). -/
def State.osxsave (s : State) : Bool := s.cr4.getLsbD 18

/-- `cfg.os_enabled MMX`: CR0.EM = 0 (R153). -/
def State.mmxEnabled (s : State) : Bool := !s.em

/-- `cfg.os_enabled SSE`: CR0.EM = 0 and CR4.OSFXSR = 1 (R152). -/
def State.sseEnabled (s : State) : Bool := !s.em && s.osfxsr

/-- `cfg.os_enabled AVX`: CR4.OSXSAVE = 1 and XCR0[2:1] = 11 (R152). -/
def State.avxEnabled (s : State) : Bool := s.osxsave && s.xcr0.getLsbD 1 && s.xcr0.getLsbD 2

/-- `cfg.os_enabled AVX512`: the same and XCR0[7:5] = 111 (R154). -/
def State.avx512Enabled (s : State) : Bool :=
  s.avxEnabled && s.xcr0.getLsbD 5 && s.xcr0.getLsbD 6 && s.xcr0.getLsbD 7

/-- `cfg.ac_checking`: CR0.AM = 1, EFLAGS.AC = 1 and the privilege level is 3 (R26, R44). -/
def State.acChecking (s : State) : Bool := s.am && s.acFlag && s.cpl == 3

end Sys2Proof.Machine
end

