-- ==== Sys2Proof/Machine/Ops.lean ====
section
/-! DEFINITION. The named operations over memory and registers, the admission of a memory operand, raising an exception,
and the checks that stand before every form. -/

namespace Sys2Proof.Machine

/-! ### Outcomes -/

/-- Go on with `f` if `o` is a next value; stop as `o` stops otherwise. -/
def andThen {α β : Type} (o : Host.Outcome α Fault Refusal) (f : α → Host.Outcome β Fault Refusal) :
    Host.Outcome β Fault Refusal :=
  match o with
  | .next a => f a
  | .fault e => .fault e
  | .refused r => .refused r

/-- `raise E(info)` (R13, R157): the run ends with the exception and the pc of the faulting instruction; nothing has been
written. `e` is the exception with its info, still without the pc. There is no return from it (R158). -/
def raise {α : Type} (e : Addr → Fault) (s : State) : Host.Outcome α Fault Refusal := .fault (e s.pc)

/-- The vector number of an exception (R151). -/
def Fault.vector : Fault → Nat
  | .ud _ => 6
  | .nm _ => 7
  | .ss _ => 12
  | .gp _ => 13
  | .pf _ _ => 14
  | .mf _ => 16
  | .ac _ => 17

/-- The error code an exception pushes (R151). -/
inductive ErrorCode where
  /-- none is pushed -/
  | absent
  /-- the code 0 -/
  | zero
  /-- the fault code of #PF, whose bits the spec does not model -/
  | pageFault
  deriving DecidableEq, Repr

def Fault.errorCode : Fault → ErrorCode
  | .ud _ | .nm _ | .mf _ => .absent
  | .ss _ | .gp _ | .ac _ => .zero
  | .pf _ _ => .pageFault

/-- The pc an exception records: that of the faulting instruction (R151, R157). -/
def Fault.pc : Fault → Addr
  | .ud pc | .nm pc | .ss pc | .gp pc | .pf _ pc | .mf pc | .ac pc => pc

/-! ### Memory bytes -/

/-- What an address that memory does not list reads as. -/
def Memory.unlisted : Byte := 0

/-- The byte that a list of cells holds at `a`. -/
def readCells : List Host.Cell → Nat → Byte
  | [], _ => Memory.unlisted
  | (k, v) :: cs, a => if k = a then v else readCells cs a

/-- `v` put at address `a` of a rising list of cells, which stays rising and lists no byte equal to the unlisted one. -/
def writeCells : List Host.Cell → Nat → Byte → List Host.Cell
  | [], a, v => if v = Memory.unlisted then [] else [(a, v)]
  | (k, w) :: cs, a, v =>
    if a < k then (if v = Memory.unlisted then (k, w) :: cs else (a, v) :: (k, w) :: cs)
    else if a = k then (if v = Memory.unlisted then cs else (a, v) :: cs)
    else (k, w) :: writeCells cs a v

/-- The byte at an address (R40). -/
def Memory.read (m : Memory) (a : Nat) : Byte := readCells m.cells a

/-- One byte written. No form calls it (R43); a launch's program is placed with it. -/
def Memory.write (m : Memory) (a : Nat) (v : Byte) : Memory := { cells := writeCells m.cells a v }

/-- `MemWrite(a, n, v)` as bytes at rising addresses (R13, R43). -/
def Memory.writeBytes (m : Memory) (a : Nat) : List Byte → Memory
  | [] => m
  | b :: bs => (m.write a b).writeBytes (a + 1) bs

/-- The canonical form: addresses strictly rising, no byte listed that an unlisted address reads as. -/
abbrev Memory.wf (m : Memory) : Prop :=
  m.cells.Pairwise (fun c d => c.1 < d.1) ∧ ∀ c ∈ m.cells, c.2 ≠ Memory.unlisted

/-! ### Admission of a read (R40, R46) -/

/-- The width of a linear address: 64 bits in 64-bit mode, else 32 (R40). -/
def State.addrBits (s : State) : Nat := if s.cfg.mode64 then 64 else 32

/-- Canonical in 64-bit mode: bits 63 down to la_bits - 1 all equal (R40). An address past the top counts as its wrapped
value. -/
def canonical (la : LaBits) (a : Nat) : Bool :=
  decide (a % 2 ^ 64 < 2 ^ (la.count - 1)) || decide (2 ^ 64 - 2 ^ (la.count - 1) ≤ a % 2 ^ 64)

/-- All `n` addresses from `a` are canonical. -/
def canonicalRange (la : LaBits) (a : Nat) : Nat → Bool
  | 0 => true
  | n + 1 => canonical la a && canonicalRange la (a + 1) n

def Region.holds (r : Region) (a : Nat) : Bool := decide (r.base ≤ a) && decide (a < r.base + r.size)

/-- The byte is in device memory (R48, R163). -/
def State.onDevice (s : State) (a : Nat) : Bool := s.devices.any (fun r => r.holds a)

/-- Some of the `n` bytes from `a` is in device memory. -/
def State.touchesDevice (s : State) (a : Nat) : Nat → Bool
  | 0 => false
  | n + 1 => s.onDevice a || s.touchesDevice (a + 1) n

/-- `Accessible` for one byte (R46): within the address space, canonical in 64-bit mode, in a region of the launch, and not
in device memory (R48). -/
def State.byteAccessible (s : State) (a : Nat) : Bool :=
  decide (a < 2 ^ s.addrBits) && (!s.cfg.mode64 || canonical s.cfg.laBits a) && s.accessible.any (fun r => r.holds a)
    && !s.onDevice a

/-- The first of the `n` addresses from `a` that is not accessible: `none` says `Accessible(a, n)` (R46). -/
def State.firstInaccessible (s : State) (a : Nat) : Nat → Option Nat
  | 0 => none
  | n + 1 => if s.byteAccessible a then s.firstInaccessible (a + 1) n else some a

/-! ### Reading memory (R41, R49) -/

/-- One byte of a memory operand: the memory's own under the default launch, the oracle's where other writers are
admitted (R49). -/
def State.readByte (s : State) (a : Nat) : Byte :=
  if s.otherWriters then Config.oracleByte s.reads a else s.mem.read a

/-- The `n` bytes at rising addresses from `a`. -/
def State.readBytes (s : State) (a : Nat) : Nat → List Byte
  | 0 => []
  | n + 1 => s.readByte a :: s.readBytes (a + 1) n

/-- The number whose bytes, least significant first, are the list (R41). -/
def leNat : List Byte → Nat
  | [] => 0
  | b :: bs => b.toNat + 256 * leNat bs

/-- `MemRead(a, w/8)`: `w` bits, little-endian (R41). -/
def State.memRead (w : Nat) (s : State) (a : Addr) : BitVec w := BitVec.ofNat w (leNat (s.readBytes a.toNat (w / 8)))

/-! ### Registers -/

/-- MM[i] (R23). -/
def State.readMm (s : State) (i : Fin 8) : Mm := s.mm[i]

/-- ZMM[i][w-1:0] (R13, R24). -/
def State.readVec (w : Nat) (s : State) (i : Fin 32) : BitVec w := s.zmm[i].setWidth w

/-- K[i] (R25). -/
def State.readK (s : State) (i : Fin 8) : Opmask := s.k[i]

/-- Vector register 0 to 15, as legacy and VEX forms name it (R24). -/
def vreg (i : Fin 16) : Fin 32 := Fin.castLE (by decide) i

/-- What executing an MMX form does to the x87 unit before any write: top-of-stack 0, every tag valid (R27). -/
def State.enterMmx (s : State) : State := { s with x87Top := 0, x87Tags := Vector.replicate 8 0 }

/-- MM[i] written: all 64 bits, and bits 79:64 of the aliased x87 register become ones (R27). -/
def State.writeMm (s : State) (i : Fin 8) (v : Mm) : State :=
  { s with mm := s.mm.set i v, x87Upper := s.x87Upper.set i 0xFFFF }

/-- ZMM[i] written whole. -/
def State.writeZmm (s : State) (i : Fin 32) (v : Zmm) : State := { s with zmm := s.zmm.set i v }

/-- ZMM[i][127:0] written, bits MAXVL-1:128 unchanged (R113). -/
def State.writeXmm (s : State) (i : Fin 32) (v : BitVec 128) : State :=
  s.writeZmm i (s.zmm[i] >>> 128 <<< 128 ||| v.setWidth 512)

/-- ZMM[i][w-1:0] written, bits MAXVL-1:w zero (R121, R124). -/
def State.writeVec {w : Nat} (s : State) (i : Fin 32) (v : BitVec w) : State := s.writeZmm i (v.setWidth 512)

/-- K[i] written, all MAX_KL bits (R131). -/
def State.writeK (s : State) (i : Fin 8) (v : Opmask) : State := { s with k := s.k.set i v }

/-- The address of the next instruction (R65). -/
def State.nextPc (s : State) (len : Nat) : Addr := s.pc + BitVec.ofNat 64 len

/-- `pc <- pc + len` (R21). -/
def State.advance (s : State) (len : Nat) : State := { s with pc := s.nextPc len }

/-! ### What stands before every form (R107 steps 2 and 3, R156) -/

/-- A vector length (R72). -/
inductive VecLen where
  | v128
  | v256
  | v512
  deriving DecidableEq, Repr

def VecLen.bits : VecLen → Nat
  | .v128 => 128
  | .v256 => 256
  | .v512 => 512

/-- The classes of forms that need the same flags and enables and have the same memory checks (R150, R2). -/
inductive FormClass where
  /-- rows 1, 3, 5 (R153) -/
  | mmx
  /-- rows 2, 4, 6 (R152) -/
  | sse2
  /-- rows 7 to 9 (R152) -/
  | vex128
  /-- rows 10 to 12 (R152) -/
  | vex256
  /-- rows 13 to 15: Type E4 (R154) -/
  | evexD (vl : VecLen)
  /-- rows 16 to 21: Type E4.nb (R155) -/
  | evexBW (vl : VecLen)
  deriving DecidableEq, Repr

/-- The form's CPUID feature flags are all 1 (R2, R152 to R155). -/
def FormClass.supported (c : FormClass) (f : Features) : Bool :=
  match c with
  | .mmx => f.mmx
  | .sse2 => f.sse2
  | .vex128 => f.avx
  | .vex256 => f.avx2
  | .evexD vl => f.avx512f && (vl == .v512 || f.avx512vl)
  | .evexBW vl => f.avx512bw && (vl == .v512 || f.avx512vl)

/-- System software has enabled the state the form needs (R152 to R155). -/
def FormClass.enabled (c : FormClass) (s : State) : Bool :=
  match c with
  | .mmx => s.mmxEnabled
  | .sse2 => s.sseEnabled
  | .vex128 | .vex256 => s.avxEnabled
  | .evexD _ | .evexBW _ => s.avx512Enabled

/-- What a misaligned address does to a form's memory operand (R44). -/
inductive AlignRule where
  /-- #GP(0) if not a multiple of 16, always -/
  | fault16
  /-- #AC(0) under alignment checking -/
  | check
  /-- refused under alignment checking -/
  | refuse
  deriving DecidableEq, Repr

def FormClass.alignRule : FormClass → AlignRule
  | .mmx => .check
  | .sse2 => .fault16
  | .vex128 | .vex256 | .evexD _ | .evexBW _ => .refuse

/-- The one memory access of a form: its linear address, its bytes (R42), and whether SS is its default segment (R45). -/
structure Access where
  addr : Addr
  bytes : Nat
  ss : Bool
  deriving DecidableEq, Repr

/-- The address is not a multiple of the operand's size (R44). -/
def Access.misaligned (a : Access) : Bool := a.addr.toNat % a.bytes != 0

/-- R44's refusal. -/
def alignmentRefused (c : FormClass) (acc : Option Access) (s : State) : Bool :=
  c.alignRule == .refuse && s.acChecking && acc.any (fun a => a.misaligned)

/-- The refusals asked of a form of `len` bytes before any exception (R156 item 0): R21's at the top of the address space
(DESIGN CHOICE, notes/assumptions/13.md), then R44's. -/
def formRefusal (c : FormClass) (len : Nat) (acc : Option Access) (s : State) : Option Refusal :=
  if 2 ^ s.addrBits ≤ s.pc.toNat + len then some .pcWrap
  else if alignmentRefused c acc s then some .alignmentCheckUnmodelled
  else none

/-- The admission of a read, in the order of R46; its last case's refusal has been asked before (R156 item 0). Where R46 asks
`Accessible`, an operand that touches device memory is refused (R163; the place in the order is the model's choice,
notes/assumptions/24.md). -/
def admitRead (c : FormClass) (a : Access) (s : State) : Host.Outcome Unit Fault Refusal :=
  if c.alignRule = .fault16 ∧ a.addr.toNat % 16 ≠ 0 then raise .gp s
  else if s.cfg.mode64 ∧ canonicalRange s.cfg.laBits a.addr.toNat a.bytes = false then
    (if a.ss then raise .ss s else raise .gp s)
  else if s.touchesDevice a.addr.toNat a.bytes then .refused .deviceMemory
  else
    match s.firstInaccessible a.addr.toNat a.bytes with
    | some la => raise (.pf (BitVec.ofNat 64 la)) s
    | none => if c.alignRule = .check ∧ s.acChecking ∧ a.misaligned then raise .ac s else .next ()

/-- The admission of a form's memory operand, if it has one. -/
def admitOperand (c : FormClass) (acc : Option Access) (s : State) : Host.Outcome Unit Fault Refusal :=
  match acc with
  | none => .next ()
  | some a => admitRead c a s

/-- Every check before a form of `len` bytes writes anything, in the order of R156: refusals, #UD, #NM, #MF, the memory
operand. -/
def checkForm (c : FormClass) (len : Nat) (acc : Option Access) (s : State) : Host.Outcome Unit Fault Refusal :=
  match formRefusal c len acc s with
  | some r => .refused r
  | none =>
    if (c.supported s.cfg.feat && c.enabled s) = false then raise .ud s
    else if s.ts then raise .nm s
    else if c = .mmx ∧ s.cfg.x87Pending then raise .mf s
    else admitOperand c acc s

/-- The operand read, if there is one, is counted, so that the next draws fresh bytes from the oracle (R49). -/
def State.countRead (s : State) (acc : Option Access) : State :=
  match acc with
  | none => s
  | some _ => { s with reads := s.reads + 1 }

/-- The run is over: pc = end_addr (R184). -/
def State.ended (s : State) : Bool := s.endAddr == some s.pc

end Sys2Proof.Machine
end

