-- ==== Sys2Proof/Machine/Operands.lean ====
section
/-! DEFINITION. Operands: the effective address of every addressing form (R65, R66, R74), the one memory access of a form
(R42), and the values of the source operands (R116, R120, R130). -/

namespace Sys2Proof.Machine

/-! ### Effective address -/

/-- The address size: 64 in 64-bit mode without 0x67, else 32 (R66). -/
def State.addrSize (s : State) (addr32 : Bool) : Nat := if s.cfg.mode64 && !addr32 then 64 else 32

/-- x[i] at address size `size` (R20, R65). -/
def State.addrReg (s : State) (size : Nat) (i : Fin 16) : Addr := (s.x[i].setWidth size).setWidth 64

/-- The displacement D of R65: an 8-bit one is scaled by `scale` (R74), a 32-bit one is not. -/
def Disp.value (scale : Nat) : Disp → Addr
  | .none => 0
  | .d8 d => d.signExtend 64 * BitVec.ofNat 64 scale
  | .d32 d => d.signExtend 64

/-- `index_val` of R65: number 4 is no index. -/
def State.indexValue (s : State) (size : Nat) (idx : Fin 16) (scale : Fin 4) : Addr :=
  if idx = 4 then 0 else s.addrReg size idx <<< scale.val

/-- `ea0` of R65; `next` is the address of the following instruction, `n` the scale of an 8-bit displacement. -/
def State.rawAddress (s : State) (size n : Nat) (next : Addr) : MemOp → Addr
  | .dispOnly d => (if s.cfg.mode64 then next else 0) + d.signExtend 64
  | .base b d => s.addrReg size b + Disp.value n d
  | .sib b idx scale d => s.addrReg size b + s.indexValue size idx scale + Disp.value n d
  | .sibNoBase idx scale d => s.indexValue size idx scale + d.signExtend 64

/-- The effective address: `ea0` modulo 2^A, zero-extended; the linear address is the same (R45, R65). -/
def State.effectiveAddress (s : State) (addr32 : Bool) (n : Nat) (next : Addr) (m : MemOp) : Addr :=
  ((s.rawAddress (s.addrSize addr32) n next m).setWidth (s.addrSize addr32)).setWidth 64

/-- The default segment is SS: the base is register 4 or 5 (R45). -/
def usesSS : MemOp → Bool
  | .base b _ | .sib b _ _ _ => b == 4 || b == 5
  | .dispOnly _ | .sibNoBase _ _ _ => false

/-- The access of a memory operand of `bytes` bytes in an instruction of `len` bytes (R42, R45, R65). -/
def State.memAccess (s : State) (addr32 : Bool) (n len bytes : Nat) (m : MemOp) : Access where
  addr := s.effectiveAddress addr32 n (s.nextPc len) m
  bytes := bytes
  ss := usesSS m

/-! ### The accesses of the shapes -/

/-- An MMX form's: m64 (R42). -/
def mmAccess (p : LegacyPrefix) (src : Rm 8) (s : State) : Option Access :=
  match src with
  | .reg _ => none
  | .mem m => some (s.memAccess p.addr32 1 (mmLen p src) 8 m)

/-- A legacy SSE2 form's: m128 (R42). -/
def xmmAccess (p : LegacyPrefix) (src : Rm 16) (s : State) : Option Access :=
  match src with
  | .reg _ => none
  | .mem m => some (s.memAccess p.addr32 1 (xmmLen p src) 16 m)

/-- A VEX form's: m128 or m256 (R42). -/
def vexAccess (vl : VecLen) (p : VexPrefix) (src2 : Rm 16) (s : State) : Option Access :=
  match src2 with
  | .reg _ => none
  | .mem m => some (s.memAccess p.addr32 1 (vexLen p src2) (vl.bits / 8) m)

/-- EVEX VPCMPEQB's and VPCMPEQW's: VL/8 bytes; tuple type Full Mem (R42, R74). -/
def evexAccess (vl : VecLen) (addr32 : Bool) (src2 : Rm 32) (s : State) : Option Access :=
  match src2 with
  | .reg _ => none
  | .mem m => some (s.memAccess addr32 (vl.bits / 8) (evexLen addr32 src2.len) (vl.bits / 8) m)

/-- EVEX VPCMPEQD's: VL/8 bytes, or 4 when it broadcasts; tuple type Full (R42, R74). -/
def evexDAccess (vl : VecLen) (addr32 : Bool) (src2 : RmBcst) (s : State) : Option Access :=
  match src2 with
  | .reg _ => none
  | .mem m => some (s.memAccess addr32 (vl.bits / 8) (evexLen addr32 src2.len) (vl.bits / 8) m)
  | .bcst m => some (s.memAccess addr32 4 (evexLen addr32 src2.len) 4 m)

end Sys2Proof.Machine

namespace Sys2Proof

open Machine

/-! ### The class and the access of an instruction -/

/-- The class of an instruction (R150). -/
def Instr.formClass : Instr → FormClass
  | .pcmpeqbMm .. | .pcmpeqwMm .. | .pcmpeqdMm .. => .mmx
  | .pcmpeqbXmm .. | .pcmpeqwXmm .. | .pcmpeqdXmm .. => .sse2
  | .vpcmpeqbXmm .. | .vpcmpeqwXmm .. | .vpcmpeqdXmm .. => .vex128
  | .vpcmpeqbYmm .. | .vpcmpeqwYmm .. | .vpcmpeqdYmm .. => .vex256
  | .vpcmpeqdK128 .. => .evexD .v128
  | .vpcmpeqdK256 .. => .evexD .v256
  | .vpcmpeqdK512 .. => .evexD .v512
  | .vpcmpeqbK128 .. | .vpcmpeqwK128 .. => .evexBW .v128
  | .vpcmpeqbK256 .. | .vpcmpeqwK256 .. => .evexBW .v256
  | .vpcmpeqbK512 .. | .vpcmpeqwK512 .. => .evexBW .v512

/-- The memory access of an instruction, `none` where its last source is a register (R42). -/
def Instr.access (i : Instr) (s : State) : Option Access :=
  match i with
  | .pcmpeqbMm p _ src | .pcmpeqwMm p _ src | .pcmpeqdMm p _ src => mmAccess p src s
  | .pcmpeqbXmm p _ src | .pcmpeqwXmm p _ src | .pcmpeqdXmm p _ src => xmmAccess p src s
  | .vpcmpeqbXmm p _ _ src2 | .vpcmpeqwXmm p _ _ src2 | .vpcmpeqdXmm p _ _ src2 => vexAccess .v128 p src2 s
  | .vpcmpeqbYmm p _ _ src2 | .vpcmpeqwYmm p _ _ src2 | .vpcmpeqdYmm p _ _ src2 => vexAccess .v256 p src2 s
  | .vpcmpeqdK128 a _ _ _ src2 => evexDAccess .v128 a src2 s
  | .vpcmpeqdK256 a _ _ _ src2 => evexDAccess .v256 a src2 s
  | .vpcmpeqdK512 a _ _ _ src2 => evexDAccess .v512 a src2 s
  | .vpcmpeqbK128 a _ _ _ src2 | .vpcmpeqwK128 a _ _ _ src2 => evexAccess .v128 a src2 s
  | .vpcmpeqbK256 a _ _ _ src2 | .vpcmpeqwK256 a _ _ _ src2 => evexAccess .v256 a src2 s
  | .vpcmpeqbK512 a _ _ _ src2 | .vpcmpeqwK512 a _ _ _ src2 => evexAccess .v512 a src2 s

end Sys2Proof

namespace Sys2Proof.Machine

/-! ### The values of the sources -/

/-- SRC of an MMX form (R116). -/
def mmSource (p : LegacyPrefix) (src : Rm 8) (s : State) : Mm :=
  match src with
  | .reg r => s.readMm r
  | .mem m => s.memRead 64 (s.memAccess p.addr32 1 (mmLen p src) 8 m).addr

/-- SRC of a legacy SSE2 form (R116). -/
def xmmSource (p : LegacyPrefix) (src : Rm 16) (s : State) : BitVec 128 :=
  match src with
  | .reg r => s.readVec 128 (vreg r)
  | .mem m => s.memRead 128 (s.memAccess p.addr32 1 (xmmLen p src) 16 m).addr

/-- SRC2 of a VEX form (R120). -/
def vexSource (vl : VecLen) (p : VexPrefix) (src2 : Rm 16) (s : State) : BitVec vl.bits :=
  match src2 with
  | .reg r => s.readVec vl.bits (vreg r)
  | .mem m => s.memRead vl.bits (s.memAccess p.addr32 1 (vexLen p src2) (vl.bits / 8) m).addr

/-- SRC2 of EVEX VPCMPEQB and VPCMPEQW (R130). -/
def evexSource (vl : VecLen) (addr32 : Bool) (src2 : Rm 32) (s : State) : BitVec vl.bits :=
  match src2 with
  | .reg r => s.readVec vl.bits r
  | .mem m => s.memRead vl.bits (s.memAccess addr32 (vl.bits / 8) (evexLen addr32 src2.len) (vl.bits / 8) m).addr

/-- SRC2 of EVEX VPCMPEQD (R130): a broadcast operand is the 32-bit value in every doubleword. -/
def evexDSource (vl : VecLen) (addr32 : Bool) (src2 : RmBcst) (s : State) : BitVec vl.bits :=
  match src2 with
  | .reg r => s.readVec vl.bits r
  | .mem m => s.memRead vl.bits (s.memAccess addr32 (vl.bits / 8) (evexLen addr32 src2.len) (vl.bits / 8) m).addr
  | .bcst m => broadcast vl.bits (s.memRead 32 (s.memAccess addr32 4 (evexLen addr32 src2.len) 4 m).addr)

/-- `km` of R130: none, or the old value of the writemask register. -/
def State.writemask (s : State) (mask : Option (Fin 8)) : Option Opmask := mask.map s.readK

end Sys2Proof.Machine
end

