-- ==== Sys2Proof/Machine/Evex.lean ====
section
/-! DEFINITION. The EVEX forms, rows 13 to 21 (R131 to R139). -/

namespace Sys2Proof.Machine

/-- EVEX VPCMPEQD at `vl` (R130, R107): checks, then K[dst] <- EqMask(32, KL, SRC1, SRC2, km), and pc <- pc + len. -/
def runEvexD (vl : VecLen) (addr32 : Bool) (dst : Fin 8) (mask : Option (Fin 8)) (src1 : Fin 32) (src2 : RmBcst)
    (s : State) : Host.Outcome State Fault Refusal :=
  andThen (checkForm (.evexD vl) (evexLen addr32 src2.len) (evexDAccess vl addr32 src2 s) s) fun _ =>
    .next (((s.countRead (evexDAccess vl addr32 src2 s)).writeK dst
      (eqMask 32 (vl.bits / 32) (s.readVec vl.bits src1) (evexDSource vl addr32 src2 s) (s.writemask mask))).advance
      (evexLen addr32 src2.len))

/-- EVEX VPCMPEQB or VPCMPEQW, elements of `w` bits, at `vl` (R130, R107). -/
def runEvexBW (w : Nat) (vl : VecLen) (addr32 : Bool) (dst : Fin 8) (mask : Option (Fin 8)) (src1 : Fin 32)
    (src2 : Rm 32) (s : State) : Host.Outcome State Fault Refusal :=
  andThen (checkForm (.evexBW vl) (evexLen addr32 src2.len) (evexAccess vl addr32 src2 s) s) fun _ =>
    .next (((s.countRead (evexAccess vl addr32 src2 s)).writeK dst
      (eqMask w (vl.bits / w) (s.readVec vl.bits src1) (evexSource vl addr32 src2 s) (s.writemask mask))).advance
      (evexLen addr32 src2.len))

/-- VPCMPEQD k1 {k2}, xmm2, xmm3/m128/m32bcst (R131). -/
def execVpcmpeqdK128 (addr32 : Bool) (dst : Fin 8) (mask : Option (Fin 8)) (src1 : Fin 32) (src2 : RmBcst) (s : State) :
    Host.Outcome State Fault Refusal :=
  runEvexD .v128 addr32 dst mask src1 src2 s

/-- VPCMPEQD k1 {k2}, ymm2, ymm3/m256/m32bcst (R132). -/
def execVpcmpeqdK256 (addr32 : Bool) (dst : Fin 8) (mask : Option (Fin 8)) (src1 : Fin 32) (src2 : RmBcst) (s : State) :
    Host.Outcome State Fault Refusal :=
  runEvexD .v256 addr32 dst mask src1 src2 s

/-- VPCMPEQD k1 {k2}, zmm2, zmm3/m512/m32bcst (R133). -/
def execVpcmpeqdK512 (addr32 : Bool) (dst : Fin 8) (mask : Option (Fin 8)) (src1 : Fin 32) (src2 : RmBcst) (s : State) :
    Host.Outcome State Fault Refusal :=
  runEvexD .v512 addr32 dst mask src1 src2 s

/-- VPCMPEQB k1 {k2}, xmm2, xmm3/m128 (R134). -/
def execVpcmpeqbK128 (addr32 : Bool) (dst : Fin 8) (mask : Option (Fin 8)) (src1 : Fin 32) (src2 : Rm 32) (s : State) :
    Host.Outcome State Fault Refusal :=
  runEvexBW 8 .v128 addr32 dst mask src1 src2 s

/-- VPCMPEQB k1 {k2}, ymm2, ymm3/m256 (R135). -/
def execVpcmpeqbK256 (addr32 : Bool) (dst : Fin 8) (mask : Option (Fin 8)) (src1 : Fin 32) (src2 : Rm 32) (s : State) :
    Host.Outcome State Fault Refusal :=
  runEvexBW 8 .v256 addr32 dst mask src1 src2 s

/-- VPCMPEQB k1 {k2}, zmm2, zmm3/m512 (R136). -/
def execVpcmpeqbK512 (addr32 : Bool) (dst : Fin 8) (mask : Option (Fin 8)) (src1 : Fin 32) (src2 : Rm 32) (s : State) :
    Host.Outcome State Fault Refusal :=
  runEvexBW 8 .v512 addr32 dst mask src1 src2 s

/-- VPCMPEQW k1 {k2}, xmm2, xmm3/m128 (R137). -/
def execVpcmpeqwK128 (addr32 : Bool) (dst : Fin 8) (mask : Option (Fin 8)) (src1 : Fin 32) (src2 : Rm 32) (s : State) :
    Host.Outcome State Fault Refusal :=
  runEvexBW 16 .v128 addr32 dst mask src1 src2 s

/-- VPCMPEQW k1 {k2}, ymm2, ymm3/m256 (R138). -/
def execVpcmpeqwK256 (addr32 : Bool) (dst : Fin 8) (mask : Option (Fin 8)) (src1 : Fin 32) (src2 : Rm 32) (s : State) :
    Host.Outcome State Fault Refusal :=
  runEvexBW 16 .v256 addr32 dst mask src1 src2 s

/-- VPCMPEQW k1 {k2}, zmm2, zmm3/m512 (R139). -/
def execVpcmpeqwK512 (addr32 : Bool) (dst : Fin 8) (mask : Option (Fin 8)) (src1 : Fin 32) (src2 : Rm 32) (s : State) :
    Host.Outcome State Fault Refusal :=
  runEvexBW 16 .v512 addr32 dst mask src1 src2 s

end Sys2Proof.Machine
end

