-- ==== Sys2Proof/Machine/Mmx.lean ====
section
/-! DEFINITION. The MMX forms, rows 1, 3 and 5 (R110, R111, R112). -/

namespace Sys2Proof.Machine

/-- An MMX form with the compare `f` (R116, R107): checks, then MM[dst] <- f(DEST, SRC), the x87 side effects of R27, and
pc <- pc + len. -/
def runMmx (f : Mm → Mm → Mm) (p : LegacyPrefix) (dst : Fin 8) (src : Rm 8) (s : State) :
    Host.Outcome State Fault Refusal :=
  andThen (checkForm .mmx (mmLen p src) (mmAccess p src s) s) fun _ =>
    .next ((((s.countRead (mmAccess p src s)).enterMmx).writeMm dst (f (s.readMm dst) (mmSource p src s))).advance
      (mmLen p src))

/-- PCMPEQB mm, mm/m64 (R110). -/
def execPcmpeqbMm (p : LegacyPrefix) (dst : Fin 8) (src : Rm 8) (s : State) : Host.Outcome State Fault Refusal :=
  runMmx (eqLanes 8 8) p dst src s

/-- PCMPEQW mm, mm/m64 (R111). -/
def execPcmpeqwMm (p : LegacyPrefix) (dst : Fin 8) (src : Rm 8) (s : State) : Host.Outcome State Fault Refusal :=
  runMmx (eqLanes 16 4) p dst src s

/-- PCMPEQD mm, mm/m64 (R112). -/
def execPcmpeqdMm (p : LegacyPrefix) (dst : Fin 8) (src : Rm 8) (s : State) : Host.Outcome State Fault Refusal :=
  runMmx (eqLanes 32 2) p dst src s

end Sys2Proof.Machine
end

