-- ==== Sys2Proof/Machine/Sse.lean ====
section
/-! DEFINITION. The legacy SSE2 forms, rows 2, 4 and 6 (R113, R114, R115). -/

namespace Sys2Proof.Machine

/-- A legacy SSE2 form with the compare `f` (R116, R107): checks, then ZMM[dst][127:0] <- f(DEST, SRC) with the bits above
unchanged, and pc <- pc + len. -/
def runSse (f : BitVec 128 → BitVec 128 → BitVec 128) (p : LegacyPrefix) (dst : Fin 16) (src : Rm 16) (s : State) :
    Host.Outcome State Fault Refusal :=
  andThen (checkForm .sse2 (xmmLen p src) (xmmAccess p src s) s) fun _ =>
    .next (((s.countRead (xmmAccess p src s)).writeXmm (vreg dst)
      (f (s.readVec 128 (vreg dst)) (xmmSource p src s))).advance (xmmLen p src))

/-- PCMPEQB xmm1, xmm2/m128 (R113). -/
def execPcmpeqbXmm (p : LegacyPrefix) (dst : Fin 16) (src : Rm 16) (s : State) : Host.Outcome State Fault Refusal :=
  runSse compareBytesEqual p dst src s

/-- PCMPEQW xmm1, xmm2/m128 (R114). -/
def execPcmpeqwXmm (p : LegacyPrefix) (dst : Fin 16) (src : Rm 16) (s : State) : Host.Outcome State Fault Refusal :=
  runSse compareWordsEqual p dst src s

/-- PCMPEQD xmm1, xmm2/m128 (R115). -/
def execPcmpeqdXmm (p : LegacyPrefix) (dst : Fin 16) (src : Rm 16) (s : State) : Host.Outcome State Fault Refusal :=
  runSse compareDwordsEqual p dst src s

end Sys2Proof.Machine
end

