-- ==== Sys2Proof/Machine/Vex.lean ====
section
/-! DEFINITION. The VEX forms, rows 7 to 12 (R121 to R126). -/

namespace Sys2Proof.Machine

/-- The class of a VEX form by its vector length (R2); there is no VEX form of 512 bits. -/
def vexClass : VecLen → FormClass
  | .v128 => .vex128
  | .v256 | .v512 => .vex256

/-- A VEX form with the compare `f` (R120, R107): checks, then ZMM[dst][VL-1:0] <- f(SRC1, SRC2) with the bits above zero,
and pc <- pc + len. -/
def runVex (vl : VecLen) (f : BitVec vl.bits → BitVec vl.bits → BitVec vl.bits) (p : VexPrefix) (dst src1 : Fin 16)
    (src2 : Rm 16) (s : State) : Host.Outcome State Fault Refusal :=
  andThen (checkForm (vexClass vl) (vexLen p src2) (vexAccess vl p src2 s) s) fun _ =>
    .next (((s.countRead (vexAccess vl p src2 s)).writeVec (vreg dst)
      (f (s.readVec vl.bits (vreg src1)) (vexSource vl p src2 s))).advance (vexLen p src2))

/-- VPCMPEQB xmm1, xmm2, xmm3/m128 (R121). -/
def execVpcmpeqbXmm (p : VexPrefix) (dst src1 : Fin 16) (src2 : Rm 16) (s : State) : Host.Outcome State Fault Refusal :=
  runVex .v128 compareBytesEqual p dst src1 src2 s

/-- VPCMPEQW xmm1, xmm2, xmm3/m128 (R122). -/
def execVpcmpeqwXmm (p : VexPrefix) (dst src1 : Fin 16) (src2 : Rm 16) (s : State) : Host.Outcome State Fault Refusal :=
  runVex .v128 compareWordsEqual p dst src1 src2 s

/-- VPCMPEQD xmm1, xmm2, xmm3/m128 (R123). -/
def execVpcmpeqdXmm (p : VexPrefix) (dst src1 : Fin 16) (src2 : Rm 16) (s : State) : Host.Outcome State Fault Refusal :=
  runVex .v128 compareDwordsEqual p dst src1 src2 s

/-- VPCMPEQB ymm1, ymm2, ymm3/m256 (R124). -/
def execVpcmpeqbYmm (p : VexPrefix) (dst src1 : Fin 16) (src2 : Rm 16) (s : State) : Host.Outcome State Fault Refusal :=
  runVex .v256 (eqLanes 8 32) p dst src1 src2 s

/-- VPCMPEQW ymm1, ymm2, ymm3/m256 (R125). -/
def execVpcmpeqwYmm (p : VexPrefix) (dst src1 : Fin 16) (src2 : Rm 16) (s : State) : Host.Outcome State Fault Refusal :=
  runVex .v256 (eqLanes 16 16) p dst src1 src2 s

/-- VPCMPEQD ymm1, ymm2, ymm3/m256 (R126). -/
def execVpcmpeqdYmm (p : VexPrefix) (dst src1 : Fin 16) (src2 : Rm 16) (s : State) : Host.Outcome State Fault Refusal :=
  runVex .v256 (eqLanes 32 8) p dst src1 src2 s

end Sys2Proof.Machine
end

