-- ==== Sys2Proof/Machine/Dispatch.lean ====
section
/-! DEFINITION. One arm per constructor of Instr. -/

namespace Sys2Proof.Machine

def exec (i : Instr) (s : State) : Host.Outcome State Fault Refusal :=
  match i with
  | .pcmpeqbMm p dst src => Sys2Proof.Machine.execPcmpeqbMm p dst src s
  | .pcmpeqbXmm p dst src => Sys2Proof.Machine.execPcmpeqbXmm p dst src s
  | .pcmpeqwMm p dst src => Sys2Proof.Machine.execPcmpeqwMm p dst src s
  | .pcmpeqwXmm p dst src => Sys2Proof.Machine.execPcmpeqwXmm p dst src s
  | .pcmpeqdMm p dst src => Sys2Proof.Machine.execPcmpeqdMm p dst src s
  | .pcmpeqdXmm p dst src => Sys2Proof.Machine.execPcmpeqdXmm p dst src s
  | .vpcmpeqbXmm p dst src1 src2 => Sys2Proof.Machine.execVpcmpeqbXmm p dst src1 src2 s
  | .vpcmpeqwXmm p dst src1 src2 => Sys2Proof.Machine.execVpcmpeqwXmm p dst src1 src2 s
  | .vpcmpeqdXmm p dst src1 src2 => Sys2Proof.Machine.execVpcmpeqdXmm p dst src1 src2 s
  | .vpcmpeqbYmm p dst src1 src2 => Sys2Proof.Machine.execVpcmpeqbYmm p dst src1 src2 s
  | .vpcmpeqwYmm p dst src1 src2 => Sys2Proof.Machine.execVpcmpeqwYmm p dst src1 src2 s
  | .vpcmpeqdYmm p dst src1 src2 => Sys2Proof.Machine.execVpcmpeqdYmm p dst src1 src2 s
  | .vpcmpeqdK128 a dst mask src1 src2 => Sys2Proof.Machine.execVpcmpeqdK128 a dst mask src1 src2 s
  | .vpcmpeqdK256 a dst mask src1 src2 => Sys2Proof.Machine.execVpcmpeqdK256 a dst mask src1 src2 s
  | .vpcmpeqdK512 a dst mask src1 src2 => Sys2Proof.Machine.execVpcmpeqdK512 a dst mask src1 src2 s
  | .vpcmpeqbK128 a dst mask src1 src2 => Sys2Proof.Machine.execVpcmpeqbK128 a dst mask src1 src2 s
  | .vpcmpeqbK256 a dst mask src1 src2 => Sys2Proof.Machine.execVpcmpeqbK256 a dst mask src1 src2 s
  | .vpcmpeqbK512 a dst mask src1 src2 => Sys2Proof.Machine.execVpcmpeqbK512 a dst mask src1 src2 s
  | .vpcmpeqwK128 a dst mask src1 src2 => Sys2Proof.Machine.execVpcmpeqwK128 a dst mask src1 src2 s
  | .vpcmpeqwK256 a dst mask src1 src2 => Sys2Proof.Machine.execVpcmpeqwK256 a dst mask src1 src2 s
  | .vpcmpeqwK512 a dst mask src1 src2 => Sys2Proof.Machine.execVpcmpeqwK512 a dst mask src1 src2 s

end Sys2Proof.Machine
end

