-- ==== Sys2Proof/Machine/Fetch.lean ====
section
/-! DEFINITION. Fetching: the bytes at pc, the instruction they hold or why the step stops (R81, R156 items 0 to 2), and
the placing of an instruction at pc for a launch. -/

namespace Sys2Proof.Machine

/-- The memory's bytes from `a` on, at most `n`, up to the first that is not accessible. Instruction bytes are the
memory's own under every launch (R52). -/
def State.fetchBytes (s : State) (a : Nat) : Nat → List Byte
  | 0 => []
  | n + 1 => if s.byteAccessible a then s.mem.read a :: s.fetchBytes (a + 1) n else []

/-- The bytes at pc that an instruction can occupy: at most 15 (R78). -/
def State.window (s : State) : List Byte := s.fetchBytes s.pc.toNat 15

/-- The refusals of R156 item 0 asked of the form `i` after `extra` bytes that do not belong to it. For bytes that raise #UD
by themselves, R21, R44 and R156 do not say whether these refusals are asked, since such bytes are no form; that they are is
the model's choice (DESIGN CHOICE, notes/assumptions/13.md and 15.md). -/
def State.refusalAt (s : State) (i : Instr) (extra : Nat) : Option Refusal :=
  formRefusal i.formClass (i.len + extra) (i.access (s.advance extra)) s

/-- The verdict on bytes that raise #UD by themselves, apart from which they are the form `i` after `extra` prefix bytes:
refusals first, then #UD (R156). -/
def State.udVerdict {α : Type} (s : State) (i : Instr) (extra : Nat) : Host.Outcome α Fault Refusal :=
  match s.refusalAt i extra with
  | some r => .refused r
  | none => raise .ud s

/-! ### A missing byte (R81 step 5, R156 items 0 and 1) -/

/-- What `bytes` standing at pc would meet of R21's and R44's refusals, if they are a form or raise #UD by themselves. -/
def State.completion (s : State) (bytes : List Byte) : Option (Option Refusal) :=
  match decode s.cfg.mode64 bytes with
  | .instr i _ => some (s.refusalAt i 0)
  | .ud i extra => some (s.refusalAt i extra)
  | .refuse _ | .more _ => none

/-- The numbers below `n`, or 0 alone. -/
def valuesIf (check : Bool) (n : Nat) : List Nat := if check then List.range n else [0]

/-- Displacements: the low six bits of the lowest byte, on which alone it depends whether an address is a multiple of 4,
16, 32 or 64 (R44). -/
def displacementTails (check : Bool) : List (List Byte) :=
  (valuesIf check 64).map fun low => [BitVec.ofNat 8 low, 0, 0, 0]

/-- SIB bytes, each with displacements. -/
def sibTails (check : Bool) : List (List Byte) :=
  (valuesIf check 256).flatMap fun sib => (displacementTails check).map (BitVec.ofNat 8 sib :: ·)

/-- ModRM bytes: a register operand, and every memory form with what follows it. -/
def modrmTails (check : Bool) : List (List Byte) :=
  [0xC0] :: [0, 1, 2].flatMap fun mod => (List.range 8).flatMap fun rm =>
    (if rm = 4 then sibTails check else displacementTails check).map (fieldByte mod 0 rm :: ·)

/-- Opcode bytes of every shape from each byte on that can be the first missing one, with an operand that R44 does not
refuse. -/
def opcodeTails : List (List Byte) :=
  [[0x74, 0xC0], [0x74, 0x00], [0x0F, 0x74, 0xC0], [0x0F, 0x74, 0x00], [0xF9, 0x74, 0xC0], [0xC5, 0xF9, 0x74, 0xC0],
    [0x79, 0x74, 0xC0], [0xE1, 0x79, 0x74, 0xC0], [0x08, 0x74, 0xC0], [0x7D, 0x08, 0x74, 0xC0],
    [0xF1, 0x7D, 0x08, 0x74, 0xC0]]

/-- Ways in which bytes that miss the byte `next` can go on: enough of them to tell whether R21 and R44 refuse every way;
only lengths matter where alignment is not checked. -/
def completionTails (check : Bool) : Missing → List (List Byte)
  | .opcode => opcodeTails
  | .modrm => modrmTails check
  | .sib => sibTails check
  | .displacement => displacementTails check

/-- The refusal that the readable bytes at pc decide although they miss the byte `next`: R21 or R44 refuses every form (and
everything that raises #UD by itself) that the bytes can still become. That these refusals are asked of the readable bytes
in this way, before the #PF of the missing byte, is the model's choice, and so is R44's name where both refuse some
(DESIGN CHOICE, notes/assumptions/13.md, 14.md and 31.md). -/
def State.missingRefusal (s : State) (next : Missing) : Option Refusal :=
  let w := s.window
  let tails := completionTails s.acChecking next
  if tails.any fun tail => s.completion (w ++ tail) == some none then none
  else if tails.any fun tail => s.completion (w ++ tail) == some (some .alignmentCheckUnmodelled) then
    some .alignmentCheckUnmodelled
  else some .pcWrap

/-- Fetch and decode at pc (R107 step 1), with the verdicts in the order of R156: a refusal that the readable bytes decide
(by their encoding, by R21 or by R44), #PF at the first missing byte, #UD (notes/assumptions/13.md, 14.md, 15.md). -/
def State.fetch (s : State) : Host.Outcome Instr Fault Refusal :=
  match decode s.cfg.mode64 s.window with
  | .instr i _ => .next i
  | .ud i extra => s.udVerdict i extra
  | .refuse r => .refused (.undecodable r)
  | .more next =>
    match s.missingRefusal next with
    | some r => .refused r
    | none => raise (.pf (BitVec.ofNat 64 (s.pc.toNat + s.window.length))) s

/-- A launch with these bytes at pc: they are written to memory; if a byte there is not accessible the launch's regions
take them in and device regions that overlap them are withdrawn (R52), and an end address at pc is withdrawn (R184). -/
def State.placeAtPc (s : State) (bytes : List Byte) : State :=
  { s with
    mem := s.mem.writeBytes s.pc.toNat bytes
    accessible :=
      if (s.firstInaccessible s.pc.toNat bytes.length).isNone then s.accessible
      else { base := s.pc.toNat, size := bytes.length } :: s.accessible
    devices :=
      if (s.firstInaccessible s.pc.toNat bytes.length).isNone then s.devices
      else s.devices.filter fun r =>
        decide (r.base + r.size ≤ s.pc.toNat) || decide (s.pc.toNat + bytes.length ≤ r.base)
    endAddr := if s.ended then none else s.endAddr }

end Sys2Proof.Machine
end

