-- ==== Sys2Proof/Machine/Step.lean ====
section
/-! DEFINITION. One step of the machine (R107, R184), and the launch that places one instruction at pc. -/

namespace Sys2Proof.Machine

/-- One step: a run that is over stays as it is (R184); otherwise one instruction is fetched, decoded and executed. -/
def step (s : State) : Host.Outcome State Fault Refusal :=
  if s.ended then .next s else andThen s.fetch fun i => exec i s

/-- The launch of `s` with the `nbits` bits of `w`, numbered as spec/opcode_table.json numbers them, at pc (R82). -/
def State.withFetchWord (s : State) (nbits w : Nat) : State := s.placeAtPc (tableBytes nbits w)

end Sys2Proof.Machine
end

