-- ==== Sys2Proof/Safety.lean ====
section
/-! DEFINITION. The terms in which claims speak of a safe run: when a form may execute (R46, R152 to R156), which class and
memory access an instruction has, the invariant of the state, and how a run ends (R184). -/

namespace Sys2Proof.Machine

/-- The read of a memory operand is admitted (R44, R46). -/
def Access.readable (c : FormClass) (a : Access) (s : State) : Bool :=
  (c.alignRule != .fault16 || a.addr.toNat % 16 == 0)
    && (!s.cfg.mode64 || canonicalRange s.cfg.laBits a.addr.toNat a.bytes)
    && (s.firstInaccessible a.addr.toNat a.bytes).isNone
    && (c.alignRule == .fault16 || !s.acChecking || !a.misaligned)

/-- The next instruction's address is within the address space (R21). -/
def pcFits (len : Nat) (s : State) : Bool := decide (s.pc.toNat + len < 2 ^ s.addrBits)

/-- The processor supports the form and system software has enabled it: none of #UD, #NM, #MF (R152 to R155). -/
def formAllowed (c : FormClass) (s : State) : Bool :=
  c.supported s.cfg.feat && c.enabled s && !s.ts && (c != .mmx || !s.cfg.x87Pending)

/-- A form of class `c` and length `len` with the access `acc` executes: no refusal and no exception (R107, R156). -/
def formReady (c : FormClass) (len : Nat) (acc : Option Access) (s : State) : Bool :=
  pcFits len s && formAllowed c s && acc.all (fun a => a.readable c s)

/-- The bytes of the window can still become a form, or bytes that raise #UD by themselves, of which R21's and R44's refusals
answer `r` (R156 item 0; `none` says that neither refuses it): some bytes after them make it. -/
def State.CanMeet (s : State) (r : Option Refusal) : Prop :=
  ∃ (tail : List Byte) (i : Instr) (extra : Nat),
    ((extra = 0 ∧ ∃ rest, decode s.cfg.mode64 (s.window ++ tail) = .instr i rest)
        ∨ decode s.cfg.mode64 (s.window ++ tail) = .ud i extra)
      ∧ s.refusalAt i extra = r

/-- What the machine keeps true from launch on: the configuration is one the spec allows (R7 to R9), the register bits
above MAXVL and MAX_KL, which do not exist, are 0 (R24, R25), pc is a 32-bit value outside 64-bit mode (R21), AVX enabled
implies SSE enabled (R181; that AVX512 enabled implies AVX enabled holds of every state), and memory is in canonical form. -/
structure State.Inv (s : State) : Prop where
  config : s.cfg.wf = true
  zmm : ∀ i : Fin 32, (s.readVec 512 i).toNat < 2 ^ s.cfg.maxVl.bits
  k : ∀ i : Fin 8, s.readK i < 2 ^ s.cfg.maxKl
  pc : s.pc.toNat < 2 ^ s.addrBits
  enables : s.avxEnabled = true → s.sseEnabled = true
  mem : s.mem.wf

/-! ### What a form leaves alone -/

/-- The general registers, flags, control registers, privilege level, configuration and launch parameters are as before,
and every byte of memory reads as before (R20, R22, R26, R43). -/
structure KeepsSystem (s t : State) : Prop where
  cfg : t.cfg = s.cfg
  x : t.x = s.x
  eflags : t.eflags = s.eflags
  mxcsr : t.mxcsr = s.mxcsr
  cr0 : t.cr0 = s.cr0
  cr4 : t.cr4 = s.cr4
  xcr0 : t.xcr0 = s.xcr0
  cpl : t.cpl = s.cpl
  mem : ∀ a, t.mem.read a = s.mem.read a
  accessible : t.accessible = s.accessible
  devices : t.devices = s.devices
  otherWriters : t.otherWriters = s.otherWriters
  endAddr : t.endAddr = s.endAddr

/-- The MMX registers and the x87 state they alias are as before (R27). -/
structure KeepsMmx (s t : State) : Prop where
  mm : t.mm = s.mm
  top : t.x87Top = s.x87Top
  tags : t.x87Tags = s.x87Tags
  upper : t.x87Upper = s.x87Upper

/-! ### The effective address over the integers -/

/-- The displacement D of R65 as an integer. -/
def Disp.exact (n : Nat) : Disp → Int
  | .none => 0
  | .d8 d => d.toInt * n
  | .d32 d => d.toInt

/-- `index_val` of R65 as an integer, at address size `size`. -/
def State.exactIndex (s : State) (size : Nat) (idx : Fin 16) (scale : Fin 4) : Int :=
  if idx = 4 then 0 else ((s.x[idx].toNat % 2 ^ size : Nat) : Int) * 2 ^ scale.val

/-- `ea0` of R65 as an integer, before it is taken modulo 2^A. -/
def State.exactAddress (s : State) (size n : Nat) (next : Addr) : MemOp → Int
  | .dispOnly d => (if s.cfg.mode64 then (next.toNat : Int) else 0) + d.toInt
  | .base b d => ((s.x[b].toNat % 2 ^ size : Nat) : Int) + Disp.exact n d
  | .sib b idx scale d =>
    ((s.x[b].toNat % 2 ^ size : Nat) : Int) + s.exactIndex size idx scale + Disp.exact n d
  | .sibNoBase idx scale d => s.exactIndex size idx scale + d.toInt

end Sys2Proof.Machine

namespace Sys2Proof

open Machine

/-- The register that a memory operand's address has as its base (R45, R65). -/
def MemOp.baseReg : MemOp → Option (Fin 16)
  | .base b _ | .sib b _ _ _ => some b
  | .dispOnly _ | .sibNoBase _ _ _ => none

/-- The instruction has the address-size prefix 0x67 (R66). -/
def Instr.addr32 : Instr → Bool
  | .pcmpeqbMm p .. | .pcmpeqwMm p .. | .pcmpeqdMm p .. | .pcmpeqbXmm p .. | .pcmpeqwXmm p .. | .pcmpeqdXmm p .. => p.addr32
  | .vpcmpeqbXmm p .. | .vpcmpeqwXmm p .. | .vpcmpeqdXmm p .. | .vpcmpeqbYmm p .. | .vpcmpeqwYmm p ..
  | .vpcmpeqdYmm p .. => p.addr32
  | .vpcmpeqdK128 a .. | .vpcmpeqdK256 a .. | .vpcmpeqdK512 a .. | .vpcmpeqbK128 a .. | .vpcmpeqbK256 a ..
  | .vpcmpeqbK512 a .. | .vpcmpeqwK128 a .. | .vpcmpeqwK256 a .. | .vpcmpeqwK512 a .. => a

/-- The legacy prefix bytes that a form has: 0x67 where it has that prefix, and 0x66 where that selects its row (R60, R67). -/
def Instr.prefixes (i : Instr) : List Byte :=
  addrPrefix i.addr32 ++ if i.formClass = .sse2 then [0x66] else []

/-- The bytes `code` spell the instruction: its legacy prefixes in any order (R67), then one of its bodies. -/
def Instr.SpelledBy (mode64 : Bool) (i : Instr) (code : List Byte) : Prop :=
  ∃ P body, P.Perm i.prefixes ∧ body ∈ i.bodies mode64 ∧ code = P ++ body

/-- The bodies of EVEX bytes that raise #UD by themselves: those of the form with W = 1 where the opcode is 76, and with
EVEX.b = 1 where it is 74 or 75 (R72, R77, R155). -/
def Instr.udBodies (mode64 : Bool) (i : Instr) : List (List Byte) :=
  match i.formClass with
  | .evexD _ => (i.bodies mode64).map fun body => body.modify 2 (· ||| 0x80)
  | .evexBW _ => (i.bodies mode64).map fun body => body.modify 3 (· ||| 0x10)
  | .mmx | .sse2 | .vex128 | .vex256 => []

/-- The bytes `code` spell the form `i` with what raises #UD (R68, R70, R72, R81): LOCK among the prefixes of a legacy form;
before a VEX or EVEX form, among its prefixes, some of 66, F2, F3 and F0, none twice, and in 64-bit mode a REX byte after
them, or a body that raises #UD. `extra` counts the bytes that do not belong to the form. -/
def Instr.UdSpelledBy (mode64 : Bool) (i : Instr) (extra : Nat) (code : List Byte) : Prop :=
  if i.formClass = .mmx ∨ i.formClass = .sse2 then
    extra = 1 ∧ ∃ P body, P.Perm (0xF0 :: i.prefixes) ∧ body ∈ i.bodies mode64 ∧ code = P ++ body
  else
    ∃ (stray P : List Byte) (rex : Option Byte) (body : List Byte),
      stray.Sublist [0x66, 0xF2, 0xF3, 0xF0] ∧ P.Perm (stray ++ i.prefixes)
        ∧ (∀ b, rex = some b → mode64 = true ∧ b &&& 0xF0 = 0x40) ∧ extra = stray.length + rex.toList.length
        ∧ ((extra ≠ 0 ∧ body ∈ i.bodies mode64) ∨ body ∈ i.udBodies mode64) ∧ code = P ++ rex.toList ++ body

/-- The instruction accesses `bytes` bytes (R42) at the address of `m` by R65, with the prefix `a32` (R66), an 8-bit
displacement scaled by `n` (R74) and the following instruction at pc + len, through SS exactly if the base is register 4 or
5 (R45). -/
def Instr.Addresses (i : Instr) (s : State) (a32 : Bool) (n bytes : Nat) (m : MemOp) : Prop :=
  ∃ a : Access, i.access s = some a ∧ a.bytes = bytes ∧ (a.ss = true ↔ m.baseReg = some 4 ∨ m.baseReg = some 5)
    ∧ (a.addr.toNat : Int)
      = s.exactAddress (s.addrSize a32) n (s.pc + BitVec.ofNat 64 i.len) m % 2 ^ s.addrSize a32

/-- The same VEX instruction in the three-byte form (R69). -/
def Instr.threeByteVex : Instr → Instr
  | .vpcmpeqbXmm p d a b => .vpcmpeqbXmm { p with three := true } d a b
  | .vpcmpeqwXmm p d a b => .vpcmpeqwXmm { p with three := true } d a b
  | .vpcmpeqdXmm p d a b => .vpcmpeqdXmm { p with three := true } d a b
  | .vpcmpeqbYmm p d a b => .vpcmpeqbYmm { p with three := true } d a b
  | .vpcmpeqwYmm p d a b => .vpcmpeqwYmm { p with three := true } d a b
  | .vpcmpeqdYmm p d a b => .vpcmpeqdYmm { p with three := true } d a b
  | i => i

end Sys2Proof

namespace Sys2Proof.Machine

/-! ### Runs -/

/-- How a run stands after some steps (R184); a fault or refusal keeps the state before the step that stopped. -/
inductive RunEnd where
  | done (s : State)
  | fault (f : Fault) (s : State)
  | refused (r : Refusal) (s : State)
  | running (s : State)
  deriving DecidableEq, Repr

/-- A run of at most `n` instructions (R184). -/
def runFor : Nat → State → RunEnd
  | 0, s => if s.ended then .done s else .running s
  | n + 1, s =>
    if s.ended then .done s
    else
      match step s with
      | .next t => runFor n t
      | .fault f => .fault f s
      | .refused r => .refused r s

end Sys2Proof.Machine
end

