-- ==== Sys2Proof/Certificates/Slice0/Obligations.lean ====
section
/-! DEFINITION. The statements for the provers. Each docstring names the rules of spec/ it formalises. -/

open Sys2Proof Sys2Proof.Machine

/-! ### Encoding -/

/-- R60, R64 to R76: decoding what the encoder writes for a well-formed instruction, whatever bytes follow it, gives that
instruction with every operand as it was, and leaves exactly the bytes that follow. -/
def Obligations.DecodeOfEncodeIsTheInstruction : Prop :=
  ∀ (mode64 : Bool) (i : Instr) (tail : List Byte),
    i.wellFormed mode64 = true → decode mode64 (encode i ++ tail) = .instr i tail

/-- R62, R66 to R76, R81: exactly the 21 forms decode, each from exactly its spellings: bytes decode to an instruction if and only
if it is encodable in the mode and they begin with one of its spellings, the rest being what follows. The spellings of an
instruction differ in the order of 66 and 67 (R67), W of a WIG row (R70, R72), and X and B bits that name nothing (D19). -/
def Obligations.ExactlyTheSpellingsDecode : Prop :=
  ∀ (mode64 : Bool) (bs rest : List Byte) (i : Instr),
    decode mode64 bs = .instr i rest ↔
      i.wellFormed mode64 = true ∧ ∃ code, i.SpelledBy mode64 code ∧ bs = code ++ rest

/-- R66 to R76, R81: the decoder answers only instructions that are encodable in the mode (outside 64-bit mode no REX, no 0x67
and no register above 7; K0 is never a writemask), and only bytes that are such a form apart from what raises #UD are found to
raise #UD: LOCK with a legacy form; 66, F2, F3, F0 or REX before a VEX or EVEX form; W = 1 with EVEX opcode 76; EVEX.b = 1 with
74 or 75; and they have no more than 15 bytes (R78). -/
def Obligations.DecodedInstructionIsWellFormed : Prop :=
  ∀ (mode64 : Bool) (bs : List Byte) (i : Instr),
    (∀ rest, decode mode64 bs = .instr i rest → i.wellFormed mode64 = true)
      ∧ ∀ extra, decode mode64 bs = .ud i extra → i.wellFormed mode64 = true ∧ i.len + extra ≤ 15
        ∧ ∃ code tail, i.UdSpelledBy mode64 extra code ∧ bs = code ++ tail

/-- R78: a decoded instruction is the first `len` bytes of the list, and `len` is 3 to 12. -/
def Obligations.DecodedInstructionHasItsLength : Prop :=
  ∀ (mode64 : Bool) (bs rest : List Byte) (i : Instr), decode mode64 bs = .instr i rest →
    (∃ code, bs = code ++ rest ∧ code.length = i.len) ∧ 3 ≤ i.len ∧ i.len ≤ 12

/-- R65, R68, R70, R72, R74, R76: the worked encodings that those rules give as bytes with their instruction. -/
def Obligations.WorkedEncodingsDecode : Prop :=
  decode true [0x66, 0x45, 0x0F, 0x76, 0xBC, 0x8C, 0x00, 0x01, 0x00, 0x00]
      = .instr (.pcmpeqdXmm ⟨false, true⟩ 15 (.mem (.sib 12 1 2 (.d32 0x100)))) []
    ∧ decode true [0x0F, 0x74, 0xC1] = .instr (.pcmpeqbMm ⟨false, false⟩ 0 (.reg 1)) []
    ∧ decode true [0x66, 0x44, 0x0F, 0x74, 0xC1] = .instr (.pcmpeqbXmm ⟨false, true⟩ 8 (.reg 1)) []
    ∧ decode true [0x66, 0x41, 0x0F, 0x74, 0xC9] = .instr (.pcmpeqbXmm ⟨false, true⟩ 1 (.reg 9)) []
    ∧ decode true [0xC5, 0xE9, 0x74, 0xCB] = .instr (.vpcmpeqbXmm ⟨false, false⟩ 1 2 (.reg 3)) []
    ∧ decode true [0xC4, 0x41, 0x29, 0x76, 0xCB] = .instr (.vpcmpeqdXmm ⟨false, true⟩ 9 10 (.reg 11)) []
    ∧ decode true [0xC5, 0x6D, 0x75, 0x47, 0x20] = .instr (.vpcmpeqwYmm ⟨false, false⟩ 8 2 (.mem (.base 7 (.d8 0x20)))) []
    ∧ decode true [0x62, 0xF1, 0x6D, 0x4A, 0x76, 0xCB] = .instr (.vpcmpeqdK512 false 1 (some 2) 2 (.reg 3)) []
    ∧ decode true [0x62, 0x91, 0x75, 0x07, 0x76, 0xEE] = .instr (.vpcmpeqdK128 false 5 (some 7) 17 (.reg 30)) []
    ∧ decode true [0x62, 0xF1, 0x6D, 0x4A, 0x76, 0x48, 0x01]
        = .instr (.vpcmpeqdK512 false 1 (some 2) 2 (.mem (.base 0 (.d8 1)))) []
    ∧ decode true [0x62, 0xF1, 0x6D, 0x5A, 0x76, 0x48, 0x10]
        = .instr (.vpcmpeqdK512 false 1 (some 2) 2 (.bcst (.base 0 (.d8 0x10)))) []
    ∧ decode true [0x62, 0xF1, 0x6D, 0x2A, 0x76, 0x48, 0x02]
        = .instr (.vpcmpeqdK256 false 1 (some 2) 2 (.mem (.base 0 (.d8 2)))) []
    ∧ decode true [0x62, 0xF1, 0x6D, 0x4A, 0x74, 0x88, 0x41, 0x00, 0x00, 0x00]
        = .instr (.vpcmpeqbK512 false 1 (some 2) 2 (.mem (.base 0 (.d32 0x41)))) []
    ∧ decode false [0xC5, 0xCD, 0x76, 0x7C, 0x24, 0x08]
        = .instr (.vpcmpeqdYmm ⟨false, false⟩ 7 6 (.mem (.sib 4 4 0 (.d8 8)))) []
    ∧ decode false [0x62, 0xF1, 0x45, 0x48, 0x75, 0xC8] = .instr (.vpcmpeqwK512 false 1 none 7 (.reg 0)) []

/-- R61, R70, R72: the W bit of a `.WIG` row is ignored, with and without 0x67 before the prefix: VEX.W always, EVEX.W with
the opcodes 74 and 75. -/
def Obligations.WigBitIsIgnored : Prop :=
  ∀ (mode64 : Bool), ∀ pre ∈ [[], [0x67#8]],
    (∀ (v1 v2 : Byte) (bs : List Byte),
      decode mode64 (pre ++ 0xC4 :: v1 :: (v2 ^^^ 0x80) :: bs) = decode mode64 (pre ++ 0xC4 :: v1 :: v2 :: bs))
    ∧ ∀ (p0 p1 p2 op : Byte) (bs : List Byte), op = 0x74 ∨ op = 0x75 →
      decode mode64 (pre ++ 0x62 :: p0 :: (p1 ^^^ 0x80) :: p2 :: op :: bs)
        = decode mode64 (pre ++ 0x62 :: p0 :: p1 :: p2 :: op :: bs)

/-- R69: a two-byte VEX prefix and the three-byte one with X, B and W as the two-byte one implies them, and the same other
bits, encode the same instruction, with and without 0x67 before the prefix. -/
def Obligations.TwoAndThreeByteVexAgree : Prop :=
  ∀ (mode64 : Bool), ∀ pre ∈ [[], [0x67#8]], ∀ (v0 : Byte) (bs rest : List Byte) (i : Instr),
    decode mode64 (pre ++ 0xC5 :: v0 :: bs) = .instr i rest →
      decode mode64 (pre ++ 0xC4 :: ((v0 &&& 0x80) ||| 0x61) :: (v0 &&& 0x7F) :: bs) = .instr i.threeByteVex rest

/-- R72, R73, R77: EVEX bytes with a reserved field set are never an instruction, with and without 0x67 before the prefix:
P0[3:2] not 00, P1[2] not 1, a stored R or R' of 0, z = 1, L'L = 11, W = 1 with opcode 76, b = 1 with opcode 74 or 75, b = 1
with opcode 76 and a register operand. -/
def Obligations.ReservedEvexFieldsNeverDecode : Prop :=
  ∀ (mode64 : Bool), ∀ pre ∈ [[], [0x67#8]], ∀ (p0 p1 p2 op : Byte) (bs rest : List Byte) (i : Instr),
    (p0.getLsbD 3 = true ∨ p0.getLsbD 2 = true ∨ p1.getLsbD 2 = false ∨ p0.getLsbD 7 = false ∨ p0.getLsbD 4 = false
        ∨ p2.getLsbD 7 = true ∨ (p2.getLsbD 6 = true ∧ p2.getLsbD 5 = true)
        ∨ (p1.getLsbD 7 = true ∧ op = 0x76) ∨ (p2.getLsbD 4 = true ∧ (op = 0x74 ∨ op = 0x75))
        ∨ (p2.getLsbD 4 = true ∧ op = 0x76 ∧ ∃ modrm ∈ bs.head?, modrm.getLsbD 7 = true ∧ modrm.getLsbD 6 = true)) →
      decode mode64 (pre ++ 0x62 :: p0 :: p1 :: p2 :: op :: bs) ≠ .instr i rest

/-- R72, R73, R77: what each reserved EVEX field does to bytes that are an instruction without it. Refused by name: P0[2] or
P0[3] set and P1[2] cleared (evex_reserved_bits), L'L = 11 (evex_ll_reserved), z = 1 (evex_z_on_mask_dest), a stored R of 0
in 64-bit mode or R' of 0 (evex_r_on_mask_dest; outside 64-bit mode that name, not R76's, is the model's choice,
notes/assumptions/31.md), b = 1 with opcode 76 and a register (evex_b_with_register). Raising #UD: W = 1 with opcode 76, b = 1
with opcode 74 or 75. -/
def Obligations.EachReservedEvexFieldHasItsVerdict : Prop :=
  ∀ (mode64 : Bool), ∀ pre ∈ [[], [0x67#8]], ∀ (p0 p1 p2 op : Byte) (bs rest : List Byte) (i : Instr),
    decode mode64 (pre ++ 0x62 :: p0 :: p1 :: p2 :: op :: bs) = .instr i rest →
      (∀ r ∈ [p0 ||| 0x04, p0 ||| 0x08],
          decode mode64 (pre ++ 0x62 :: r :: p1 :: p2 :: op :: bs) = .refuse .evexReservedBits)
        ∧ decode mode64 (pre ++ 0x62 :: p0 :: (p1 &&& 0xFB) :: p2 :: op :: bs) = .refuse .evexReservedBits
        ∧ decode mode64 (pre ++ 0x62 :: p0 :: p1 :: (p2 ||| 0x60) :: op :: bs) = .refuse .evexLlReserved
        ∧ decode mode64 (pre ++ 0x62 :: p0 :: p1 :: (p2 ||| 0x80) :: op :: bs) = .refuse .evexZOnMaskDest
        ∧ (mode64 = true →
          decode mode64 (pre ++ 0x62 :: (p0 &&& 0x7F) :: p1 :: p2 :: op :: bs) = .refuse .evexROnMaskDest)
        ∧ decode mode64 (pre ++ 0x62 :: (p0 &&& 0xEF) :: p1 :: p2 :: op :: bs) = .refuse .evexROnMaskDest
        ∧ (op = 0x76 → (∃ modrm ∈ bs.head?, modrm.getLsbD 7 = true ∧ modrm.getLsbD 6 = true) →
          decode mode64 (pre ++ 0x62 :: p0 :: p1 :: (p2 ||| 0x10) :: op :: bs) = .refuse .evexBWithRegister)
        ∧ (op = 0x76 → decode mode64 (pre ++ 0x62 :: p0 :: (p1 ||| 0x80) :: p2 :: op :: bs) = .ud i 0)
        ∧ (op = 0x74 ∨ op = 0x75 → decode mode64 (pre ++ 0x62 :: p0 :: p1 :: (p2 ||| 0x10) :: op :: bs) = .ud i 0)

/-- R51, R67, R68, R77: LOCK anywhere among the prefixes of a legacy form, in any of its spellings, raises #UD; apart from it the
bytes are the form. -/
def Obligations.LockedLegacyFormIsUd : Prop :=
  ∀ (mode64 : Bool) (i : Instr) (P body tail : List Byte), i.wellFormed mode64 = true →
    i.formClass = .mmx ∨ i.formClass = .sse2 → P.Perm (0xF0 :: i.prefixes) → body ∈ i.bodies mode64 →
      decode mode64 (P ++ body ++ tail) = .ud i 1

/-- R67, R70, R72, R78, R81: some of 66, F2, F3 and F0, none twice and in any order with 0x67, before a VEX or EVEX form in any of
its spellings, or in 64-bit mode a REX byte right before its prefix, or both, raise #UD, and so do EVEX bytes with W = 1 and
opcode 76 or with EVEX.b = 1 and opcode 74 or 75, with or without such bytes before them; apart from what raises #UD the bytes
are the form. With more than 15 bytes in all they are refused. -/
def Obligations.PrefixBeforeVexOrEvexIsUd : Prop :=
  ∀ (mode64 : Bool) (i : Instr) (stray P : List Byte) (rex : Option Byte) (body tail : List Byte),
    i.wellFormed mode64 = true → i.formClass ≠ .mmx → i.formClass ≠ .sse2 →
    stray.Sublist [0x66, 0xF2, 0xF3, 0xF0] → P.Perm (stray ++ i.prefixes) →
    (∀ b, rex = some b → mode64 = true ∧ b &&& 0xF0 = 0x40) →
    (stray.length + rex.toList.length ≠ 0 ∧ body ∈ i.bodies mode64) ∨ body ∈ i.udBodies mode64 →
      decode mode64 (P ++ rex.toList ++ body ++ tail)
        = if 15 < i.len + (stray.length + rex.toList.length) then .refuse .tooLong
          else .ud i (stray.length + rex.toList.length)

/-- R66, R67, R68, R70, R72, R77: prefixes that make a form, in any of its spellings, refused, by name, wherever they stand among
its prefixes: a segment override with any form, F2 or F3 with a legacy form, a second 0x67 or a second 0x66, and 0x67 outside
64-bit mode. That a repeated prefix is refused with VEX and EVEX forms, and 0x67 with register forms, is read from D18 and D24
(notes/assumptions/16.md, 17.md). -/
def Obligations.RefusedPrefixesAreNamed : Prop :=
  ∀ (mode64 : Bool) (i : Instr) (b : Byte) (P body tail : List Byte), i.wellFormed mode64 = true →
    P.Perm (b :: i.prefixes) → body ∈ i.bodies mode64 →
      (b ∈ [0x2E#8, 0x36, 0x3E, 0x26, 0x64, 0x65] → decode mode64 (P ++ body ++ tail) = .refuse .segmentOverride)
        ∧ (i.formClass = .mmx ∨ i.formClass = .sse2 → b ∈ [0xF2#8, 0xF3] →
          decode mode64 (P ++ body ++ tail) = .refuse .noSuchRow)
        ∧ (i.addr32 = true → b = 0x67 → decode mode64 (P ++ body ++ tail) = .refuse .redundantPrefix)
        ∧ (i.formClass = .sse2 → b = 0x66 → decode mode64 (P ++ body ++ tail) = .refuse .redundantPrefix)
        ∧ (mode64 = false → b = 0x67 → decode mode64 (P ++ body ++ tail) = .refuse .addr16)

/-- R68: a REX byte with W = 1 before a legacy form is refused by rex_w; with W = 0, on an MMX form (no 0x66), R = 1 is refused
by rex_on_mmx, and so is B = 1 with R = 0 and a register operand. -/
def Obligations.RefusedRexBitsAreNamed : Prop :=
  ∀ (rex op : Byte) (bs : List Byte), rex &&& 0xF0 = 0x40 → op = 0x74 ∨ op = 0x75 ∨ op = 0x76 →
    (∀ pre ∈ [[], [0x67#8], [0x66], [0x67, 0x66], [0x66, 0x67]], rex.getLsbD 3 = true →
        decode true (pre ++ rex :: 0x0F :: op :: bs) = .refuse .rexW)
      ∧ ∀ pre ∈ [[], [0x67#8]], rex.getLsbD 3 = false →
        (rex.getLsbD 2 = true → decode true (pre ++ rex :: 0x0F :: op :: bs) = .refuse .rexOnMmx)
          ∧ (rex.getLsbD 2 = false → rex.getLsbD 0 = true →
            (∃ modrm ∈ bs.head?, modrm.getLsbD 7 = true ∧ modrm.getLsbD 6 = true) →
              decode true (pre ++ rex :: 0x0F :: op :: bs) = .refuse .rexOnMmx)

/-- R81, R156: a verdict on bytes stands whatever bytes follow them: an instruction or #UD is the same with more bytes, and
refused bytes stay refused (by which name is the model's choice, notes/assumptions/31.md). -/
def Obligations.DecodingVerdictsAreFinal : Prop :=
  ∀ (mode64 : Bool) (bs tail : List Byte),
    (∀ i rest, decode mode64 bs = .instr i rest → decode mode64 (bs ++ tail) = .instr i (rest ++ tail))
      ∧ (∀ i extra, decode mode64 bs = .ud i extra → decode mode64 (bs ++ tail) = .ud i extra)
      ∧ ∀ r, decode mode64 bs = .refuse r → ∃ r', decode mode64 (bs ++ tail) = .refuse r'

/-- R78, R81, R156 item 0: bytes are found to end before the instruction only where they do not decide a refusal: they are
fewer than 15, and some bytes after them make an instruction or bytes that raise #UD. That only what the bytes decide is asked
is the model's choice (notes/assumptions/14.md). -/
def Obligations.MissingBytesLeaveTheRefusalOpen : Prop :=
  ∀ (mode64 : Bool) (bs : List Byte) (next : Missing), decode mode64 bs = .more next →
    bs.length < 15 ∧ ∃ (tail : List Byte) (i : Instr),
      (∃ rest, decode mode64 (bs ++ tail) = .instr i rest) ∨ ∃ extra, decode mode64 (bs ++ tail) = .ud i extra

/-! ### The step -/

/-- R107: when the bytes at pc decode to an instruction, the step is exec of that instruction at that state; nothing else
happens around it (every meaning advances pc itself, by the instruction's length). -/
def Obligations.StepRunsTheDecodedInstruction : Prop :=
  ∀ (s : State) (i : Instr) (rest : List Byte), s.ended = false →
    decode s.cfg.mode64 s.window = .instr i rest → i.wellFormed s.cfg.mode64 = true → step s = exec i s

/-- R81 step 5, R156 items 0 and 1: when the accessible bytes at pc end before the instruction does, the step is refused where
they decide a refusal of R21 or R44, and otherwise raises #PF at the first byte that is not accessible, all before it being
accessible. That refusals are asked of the accessible bytes alone is the model's choice (notes/assumptions/13.md, 14.md); when
they decide one is said by MissingRefusalIsWhatEveryCompletionMeets. -/
def Obligations.MissingInstructionByteFaults : Prop :=
  ∀ (s : State) (next : Missing), s.ended = false → decode s.cfg.mode64 s.window = .more next →
    (∀ r, s.missingRefusal next = some r → step s = .refused r)
      ∧ (s.missingRefusal next = none →
        step s = .fault (.pf (BitVec.ofNat 64 (s.pc.toNat + s.window.length)) s.pc)
          ∧ s.byteAccessible (s.pc.toNat + s.window.length) = false
          ∧ ∀ j, j < s.window.length → s.byteAccessible (s.pc.toNat + j) = true)

/-- R21, R44, R156 item 0: when the accessible bytes at pc end before the instruction does, they decide a refusal of R21 or R44
exactly where R21 or R44 refuses every instruction, and everything that raises #UD by itself, that some bytes after them
make; it has R44's name where R44 refuses some of these, and R21's where not. That the accessible bytes are asked in this
way, and which name is answered, is the model's choice (notes/assumptions/13.md, 14.md, 31.md). -/
def Obligations.MissingRefusalIsWhatEveryCompletionMeets : Prop :=
  ∀ (s : State) (next : Missing), decode s.cfg.mode64 s.window = .more next →
    (s.missingRefusal next = none ↔ s.CanMeet none)
      ∧ (s.missingRefusal next = some .alignmentCheckUnmodelled ↔
        ¬ s.CanMeet none ∧ s.CanMeet (some .alignmentCheckUnmodelled))
      ∧ (s.missingRefusal next = some .pcWrap ↔ ¬ s.CanMeet none ∧ ¬ s.CanMeet (some .alignmentCheckUnmodelled))

/-- R156 items 0 and 2, R157: bytes that raise #UD by themselves, apart from which they are the form i after `extra` bytes, are
refused where i would pass the top of the address space (R21) or have a misaligned operand under alignment checking (R44), and
fault with the pc of the instruction otherwise; refused bytes are refused by their name. That R21's and R44's refusals are
asked for bytes that are no form is the model's choice (notes/assumptions/13.md, 15.md). -/
def Obligations.UndecodableBytesStop : Prop :=
  ∀ s : State, s.ended = false →
    (∀ i extra, decode s.cfg.mode64 s.window = .ud i extra →
        (2 ^ s.addrBits ≤ s.pc.toNat + (i.len + extra) → step s = .refused .pcWrap)
          ∧ (s.pc.toNat + (i.len + extra) < 2 ^ s.addrBits →
            alignmentRefused i.formClass (i.access (s.advance extra)) s = true → step s = .refused .alignmentCheckUnmodelled)
          ∧ (s.pc.toNat + (i.len + extra) < 2 ^ s.addrBits →
            alignmentRefused i.formClass (i.access (s.advance extra)) s = false → step s = .fault (.ud s.pc)))
      ∧ ∀ r, decode s.cfg.mode64 s.window = .refuse r → step s = .refused (.undecodable r)

/-- R21: a form whose end would reach or pass the top of the address space is refused, before every exception, and so is one
with a missing byte when one byte more already does; that reaching the top is refused, and that this refusal comes first, is
the model's choice (notes/assumptions/13.md). -/
def Obligations.InstructionPastTheTopIsRefused : Prop :=
  (∀ (i : Instr) (s : State), 2 ^ s.addrBits ≤ s.pc.toNat + i.len → exec i s = .refused .pcWrap)
    ∧ ∀ (s : State) (next : Missing), s.ended = false → decode s.cfg.mode64 s.window = .more next →
      2 ^ s.addrBits ≤ s.pc.toNat + (s.window.length + 1) → step s = .refused .pcWrap

/-- The model's choice (notes/assumptions/12.md) of how the outcome Done of R184 shows: a step at the end address changes
nothing. -/
def Obligations.StepAtEndAddressChangesNothing : Prop :=
  ∀ s : State, s.endAddr = some s.pc → step s = .next s

/-! ### The compare functions and memory reads -/

/-- R100, R101, R102: the three helper functions, element by element. -/
def Obligations.CompareHelpersCompareEachElement : Prop :=
  ∀ a b : BitVec 128,
    (∀ j, j < 16 → (compareBytesEqual a b).extractLsb' (8 * j) 8
        = if a.extractLsb' (8 * j) 8 = b.extractLsb' (8 * j) 8 then 0xFF#8 else 0)
      ∧ (∀ j, j < 8 → (compareWordsEqual a b).extractLsb' (16 * j) 16
        = if a.extractLsb' (16 * j) 16 = b.extractLsb' (16 * j) 16 then 0xFFFF#16 else 0)
      ∧ ∀ j, j < 4 → (compareDwordsEqual a b).extractLsb' (32 * j) 32
        = if a.extractLsb' (32 * j) 32 = b.extractLsb' (32 * j) 32 then 0xFFFFFFFF#32 else 0

/-- R103: lane j of EqLanes is all ones where lanes j of the operands are equal and zero where not, so it depends on lanes
j alone; EqLanes is symmetric; of a value with itself it is all ones; at 256 bits it is the two 128-bit compares of the
low and the high halves. -/
def Obligations.EqLanesComparesEachLane : Prop :=
  (∀ (w count n : Nat) (a b : BitVec n), w * count ≤ n → ∀ j, j < count →
      lane w j (eqLanes w count a b) = if lane w j a = lane w j b then BitVec.allOnes w else 0)
    ∧ (∀ (w count n : Nat) (a b a' b' : BitVec n), w * count ≤ n → ∀ j, j < count →
      lane w j a = lane w j a' → lane w j b = lane w j b' → lane w j (eqLanes w count a b) = lane w j (eqLanes w count a' b'))
    ∧ (∀ (w count n : Nat) (a b : BitVec n), eqLanes w count a b = eqLanes w count b a)
    ∧ (∀ (w count : Nat) (a : BitVec (w * count)), eqLanes w count a a = BitVec.allOnes (w * count))
    ∧ ∀ (w : Nat) (a b : BitVec 256), w = 8 ∨ w = 16 ∨ w = 32 →
      eqLanes w (256 / w) a b
        = (eqLanes w (128 / w) (a.extractLsb' 128 128) (b.extractLsb' 128 128)
            ++ eqLanes w (128 / w) (a.extractLsb' 0 128) (b.extractLsb' 0 128) : BitVec (128 + 128))

/-- R104: bit j of EqMask is 1 exactly when j is below KL, the writemask (if any) has bit j, and the lanes are equal; so every
bit from KL up, to MAX_KL and beyond, is 0, and bits KL and above of the writemask are not read. -/
def Obligations.EqMaskSetsABitPerEqualLane : Prop :=
  (∀ (w kl n : Nat) (a b : BitVec n) (km : Option Opmask) (j : Nat),
      (eqMask w kl a b km).testBit j = true ↔
        j < kl ∧ (∀ m, km = some m → m.testBit j = true) ∧ lane w j a = lane w j b)
    ∧ ∀ (w kl n : Nat) (a b : BitVec n) (m m' : Opmask), (∀ j, j < kl → m.testBit j = m'.testBit j) →
      eqMask w kl a b (some m) = eqMask w kl a b (some m')

/-- R130: every doubleword of a broadcast operand is the 32-bit value. -/
def Obligations.BroadcastRepeatsTheDoubleword : Prop :=
  ∀ (vl : VecLen) (v : BitVec 32) (j : Nat), j < vl.bits / 32 → lane 32 j (broadcast vl.bits v) = v

/-- R41, R49: byte i of MemRead is the byte at address + i, for every operand size; under the default launch that is the
memory's own byte, and where the launch admits other writers it is the oracle's, by the number of the read and the address
(the form of that free value is the model's, notes/assumptions/19.md). -/
def Obligations.MemReadIsLittleEndian : Prop :=
  ∀ (s : State) (a : Addr) (n i : Nat), n = 4 ∨ n = 8 ∨ n = 16 ∨ n = 32 ∨ n = 64 → i < n →
    (s.memRead (8 * n) a).extractLsb' (8 * i) 8 = s.readByte (a.toNat + i)
      ∧ (s.otherWriters = false → s.readByte (a.toNat + i) = s.mem.read (a.toNat + i))
      ∧ (s.otherWriters = true → s.readByte (a.toNat + i) = Config.oracleByte s.reads (a.toNat + i))

/-- R65, R66, R74: the effective address is base + index * 2^scale + displacement over the integers, registers at the
address size and an 8-bit displacement scaled, taken modulo 2^A. -/
def Obligations.EffectiveAddressIsTheExactSum : Prop :=
  ∀ (s : State) (addr32 : Bool) (n : Nat) (next : Addr) (m : MemOp),
    ((s.effectiveAddress addr32 n next m).toNat : Int)
      = s.exactAddress (s.addrSize addr32) n next m % 2 ^ s.addrSize addr32

/-- R42, R45, R65, R66, R74: form by form, the address, the size and the segment of the memory operand: an 8-bit displacement
is scaled by 1 in the legacy and VEX forms, by VL/8 in the EVEX forms and by 4 in a broadcast; the address of the next
instruction is pc + len. -/
def Obligations.EachFormAddressesItsOperand : Prop :=
  ∀ (s : State) (lp : LegacyPrefix) (vp : VexPrefix) (a32 : Bool) (d8 : Fin 8) (d v : Fin 16) (u : Fin 32)
    (k : Option (Fin 8)) (m : MemOp),
    (∀ i ∈ [Instr.pcmpeqbMm lp d8 (.mem m), .pcmpeqwMm lp d8 (.mem m), .pcmpeqdMm lp d8 (.mem m)],
        i.Addresses s lp.addr32 1 8 m)
      ∧ (∀ i ∈ [Instr.pcmpeqbXmm lp d (.mem m), .pcmpeqwXmm lp d (.mem m), .pcmpeqdXmm lp d (.mem m)],
        i.Addresses s lp.addr32 1 16 m)
      ∧ (∀ i ∈ [Instr.vpcmpeqbXmm vp d v (.mem m), .vpcmpeqwXmm vp d v (.mem m), .vpcmpeqdXmm vp d v (.mem m)],
        i.Addresses s vp.addr32 1 16 m)
      ∧ (∀ i ∈ [Instr.vpcmpeqbYmm vp d v (.mem m), .vpcmpeqwYmm vp d v (.mem m), .vpcmpeqdYmm vp d v (.mem m)],
        i.Addresses s vp.addr32 1 32 m)
      ∧ (∀ i ∈ [Instr.vpcmpeqdK128 a32 d8 k u (.mem m), .vpcmpeqbK128 a32 d8 k u (.mem m),
          .vpcmpeqwK128 a32 d8 k u (.mem m)], i.Addresses s a32 16 16 m)
      ∧ (∀ i ∈ [Instr.vpcmpeqdK256 a32 d8 k u (.mem m), .vpcmpeqbK256 a32 d8 k u (.mem m),
          .vpcmpeqwK256 a32 d8 k u (.mem m)], i.Addresses s a32 32 32 m)
      ∧ (∀ i ∈ [Instr.vpcmpeqdK512 a32 d8 k u (.mem m), .vpcmpeqbK512 a32 d8 k u (.mem m),
          .vpcmpeqwK512 a32 d8 k u (.mem m)], i.Addresses s a32 64 64 m)
      ∧ ∀ i ∈ [Instr.vpcmpeqdK128 a32 d8 k u (.bcst m), .vpcmpeqdK256 a32 d8 k u (.bcst m),
          .vpcmpeqdK512 a32 d8 k u (.bcst m)], i.Addresses s a32 4 4 m

/-- R116, R120, R130: the values of the sources: a register operand is the register's low bits; a memory operand is the
MemRead at the address of the form's access, of exactly the bytes of that access; every doubleword of a broadcast operand is
the 32-bit MemRead there; the writemask is the register's value, or none. -/
def Obligations.SourcesAreRegistersOrMemory : Prop :=
  ∀ (s : State) (lp : LegacyPrefix) (vp : VexPrefix) (a32 : Bool) (d8 : Fin 8) (d v : Fin 16) (u : Fin 32)
    (k : Option (Fin 8)) (m : MemOp) (a : Access),
    ((∀ r, s.readMm r = s.mm[r]) ∧ (∀ r, s.readK r = s.k[r])
        ∧ (∀ (w : Nat) (r : Fin 32), w ≤ 512 → s.readVec w r = s.zmm[r].extractLsb' 0 w)
        ∧ s.writemask none = none ∧ (∀ r, s.writemask (some r) = some s.k[r])
        ∧ (∀ r, mmSource lp (.reg r) s = s.mm[r]) ∧ (∀ r, xmmSource lp (.reg r) s = s.zmm[vreg r].extractLsb' 0 128)
        ∧ ∀ vl : VecLen, (∀ r, vexSource vl vp (.reg r) s = s.zmm[vreg r].extractLsb' 0 vl.bits)
          ∧ (∀ r, evexSource vl a32 (.reg r) s = s.zmm[r].extractLsb' 0 vl.bits)
          ∧ ∀ r, evexDSource vl a32 (.reg r) s = s.zmm[r].extractLsb' 0 vl.bits)
      ∧ (∀ i ∈ [Instr.pcmpeqbMm lp d8 (.mem m), .pcmpeqwMm lp d8 (.mem m), .pcmpeqdMm lp d8 (.mem m)],
        i.access s = some a → 8 * a.bytes = 64 ∧ mmSource lp (.mem m) s = s.memRead 64 a.addr)
      ∧ (∀ i ∈ [Instr.pcmpeqbXmm lp d (.mem m), .pcmpeqwXmm lp d (.mem m), .pcmpeqdXmm lp d (.mem m)],
        i.access s = some a → 8 * a.bytes = 128 ∧ xmmSource lp (.mem m) s = s.memRead 128 a.addr)
      ∧ (∀ i ∈ [Instr.vpcmpeqbXmm vp d v (.mem m), .vpcmpeqwXmm vp d v (.mem m), .vpcmpeqdXmm vp d v (.mem m)],
        i.access s = some a → 8 * a.bytes = 128 ∧ vexSource .v128 vp (.mem m) s = s.memRead 128 a.addr)
      ∧ (∀ i ∈ [Instr.vpcmpeqbYmm vp d v (.mem m), .vpcmpeqwYmm vp d v (.mem m), .vpcmpeqdYmm vp d v (.mem m)],
        i.access s = some a → 8 * a.bytes = 256 ∧ vexSource .v256 vp (.mem m) s = s.memRead 256 a.addr)
      ∧ (∀ i ∈ [Instr.vpcmpeqbK128 a32 d8 k u (.mem m), .vpcmpeqwK128 a32 d8 k u (.mem m)],
        i.access s = some a → 8 * a.bytes = 128 ∧ evexSource .v128 a32 (.mem m) s = s.memRead 128 a.addr)
      ∧ (∀ i ∈ [Instr.vpcmpeqbK256 a32 d8 k u (.mem m), .vpcmpeqwK256 a32 d8 k u (.mem m)],
        i.access s = some a → 8 * a.bytes = 256 ∧ evexSource .v256 a32 (.mem m) s = s.memRead 256 a.addr)
      ∧ (∀ i ∈ [Instr.vpcmpeqbK512 a32 d8 k u (.mem m), .vpcmpeqwK512 a32 d8 k u (.mem m)],
        i.access s = some a → 8 * a.bytes = 512 ∧ evexSource .v512 a32 (.mem m) s = s.memRead 512 a.addr)
      ∧ ((Instr.vpcmpeqdK128 a32 d8 k u (.mem m)).access s = some a →
        8 * a.bytes = 128 ∧ evexDSource .v128 a32 (.mem m) s = s.memRead 128 a.addr)
      ∧ ((Instr.vpcmpeqdK256 a32 d8 k u (.mem m)).access s = some a →
        8 * a.bytes = 256 ∧ evexDSource .v256 a32 (.mem m) s = s.memRead 256 a.addr)
      ∧ ((Instr.vpcmpeqdK512 a32 d8 k u (.mem m)).access s = some a →
        8 * a.bytes = 512 ∧ evexDSource .v512 a32 (.mem m) s = s.memRead 512 a.addr)
      ∧ ∀ i ∈ [(Instr.vpcmpeqdK128 a32 d8 k u (.bcst m), VecLen.v128), (.vpcmpeqdK256 a32 d8 k u (.bcst m), .v256),
          (.vpcmpeqdK512 a32 d8 k u (.bcst m), .v512)],
        i.1.access s = some a → 8 * a.bytes = 32
          ∧ ∀ j, j < i.2.bits / 32 → lane 32 j (evexDSource i.2 a32 (.bcst m) s) = s.memRead 32 a.addr

/-- R42: the bytes each form accesses, and that a register operand accesses none. The last clause is about the model's own
counter of operand reads (notes/assumptions/19.md): a form that completes has counted one read if its last source is memory
and none otherwise. That the sources read exactly these bytes is SourcesAreRegistersOrMemory. -/
def Obligations.OperandSizesAreTheTables : Prop :=
  ∀ (s : State) (lp : LegacyPrefix) (vp : VexPrefix) (a32 : Bool) (d8 : Fin 8) (d v : Fin 16) (u : Fin 32)
    (k : Option (Fin 8)) (m : MemOp),
    (∀ i ∈ [Instr.pcmpeqbMm lp d8 (.mem m), .pcmpeqwMm lp d8 (.mem m), .pcmpeqdMm lp d8 (.mem m)],
        (i.access s).map (·.bytes) = some 8)
      ∧ (∀ i ∈ [Instr.pcmpeqbXmm lp d (.mem m), .pcmpeqwXmm lp d (.mem m), .pcmpeqdXmm lp d (.mem m),
          .vpcmpeqbXmm vp d v (.mem m), .vpcmpeqwXmm vp d v (.mem m), .vpcmpeqdXmm vp d v (.mem m),
          .vpcmpeqdK128 a32 d8 k u (.mem m), .vpcmpeqbK128 a32 d8 k u (.mem m), .vpcmpeqwK128 a32 d8 k u (.mem m)],
        (i.access s).map (·.bytes) = some 16)
      ∧ (∀ i ∈ [Instr.vpcmpeqbYmm vp d v (.mem m), .vpcmpeqwYmm vp d v (.mem m), .vpcmpeqdYmm vp d v (.mem m),
          .vpcmpeqdK256 a32 d8 k u (.mem m), .vpcmpeqbK256 a32 d8 k u (.mem m), .vpcmpeqwK256 a32 d8 k u (.mem m)],
        (i.access s).map (·.bytes) = some 32)
      ∧ (∀ i ∈ [Instr.vpcmpeqdK512 a32 d8 k u (.mem m), .vpcmpeqbK512 a32 d8 k u (.mem m),
          .vpcmpeqwK512 a32 d8 k u (.mem m)], (i.access s).map (·.bytes) = some 64)
      ∧ (∀ i ∈ [Instr.vpcmpeqdK128 a32 d8 k u (.bcst m), .vpcmpeqdK256 a32 d8 k u (.bcst m),
          .vpcmpeqdK512 a32 d8 k u (.bcst m)], (i.access s).map (·.bytes) = some 4)
      ∧ (∀ r8 : Fin 8, ∀ i ∈ [Instr.pcmpeqbMm lp d8 (.reg r8), .pcmpeqwMm lp d8 (.reg r8), .pcmpeqdMm lp d8 (.reg r8)],
          i.access s = none)
      ∧ (∀ r : Fin 16, ∀ i ∈ [Instr.pcmpeqbXmm lp d (.reg r), .pcmpeqwXmm lp d (.reg r), .pcmpeqdXmm lp d (.reg r),
          .vpcmpeqbXmm vp d v (.reg r), .vpcmpeqwXmm vp d v (.reg r), .vpcmpeqdXmm vp d v (.reg r),
          .vpcmpeqbYmm vp d v (.reg r), .vpcmpeqwYmm vp d v (.reg r), .vpcmpeqdYmm vp d v (.reg r)],
          i.access s = none)
      ∧ (∀ r : Fin 32, ∀ i ∈ [Instr.vpcmpeqdK128 a32 d8 k u (.reg r), .vpcmpeqdK256 a32 d8 k u (.reg r),
          .vpcmpeqdK512 a32 d8 k u (.reg r), .vpcmpeqbK128 a32 d8 k u (.reg r), .vpcmpeqbK256 a32 d8 k u (.reg r),
          .vpcmpeqbK512 a32 d8 k u (.reg r), .vpcmpeqwK128 a32 d8 k u (.reg r), .vpcmpeqwK256 a32 d8 k u (.reg r),
          .vpcmpeqwK512 a32 d8 k u (.reg r)], i.access s = none)
      ∧ ∀ (i : Instr) (t : State), exec i s = .next t →
          t.reads = s.reads + (if (i.access s).isSome then 1 else 0)

/-! ### Completion and results -/

/-- R110, R111, R112, R116: the MMX forms complete whenever they are ready (address within the space, supported, enabled,
operand readable), write MM[dst] with the lane compare of its old value and the source, and advance pc. -/
def Obligations.PcmpeqMmCompletes : Prop :=
  ∀ (p : LegacyPrefix) (dst : Fin 8) (src : Rm 8) (s : State),
    formReady .mmx (mmLen p src) (mmAccess p src s) s = true →
      (∃ t, exec (.pcmpeqbMm p dst src) s = .next t ∧ t.pc = s.pc + BitVec.ofNat 64 (mmLen p src)
          ∧ t.readMm dst = eqLanes 8 8 (s.readMm dst) (mmSource p src s))
        ∧ (∃ t, exec (.pcmpeqwMm p dst src) s = .next t ∧ t.pc = s.pc + BitVec.ofNat 64 (mmLen p src)
          ∧ t.readMm dst = eqLanes 16 4 (s.readMm dst) (mmSource p src s))
        ∧ ∃ t, exec (.pcmpeqdMm p dst src) s = .next t ∧ t.pc = s.pc + BitVec.ofNat 64 (mmLen p src)
          ∧ t.readMm dst = eqLanes 32 2 (s.readMm dst) (mmSource p src s)

/-- R113, R114, R115, R116: the legacy SSE2 forms complete whenever they are ready, write XMM[dst] with the compare of its
old value and the source, and advance pc. -/
def Obligations.PcmpeqXmmCompletes : Prop :=
  ∀ (p : LegacyPrefix) (dst : Fin 16) (src : Rm 16) (s : State),
    formReady .sse2 (xmmLen p src) (xmmAccess p src s) s = true →
      (∃ t, exec (.pcmpeqbXmm p dst src) s = .next t ∧ t.pc = s.pc + BitVec.ofNat 64 (xmmLen p src)
          ∧ t.readVec 128 (vreg dst) = compareBytesEqual (s.readVec 128 (vreg dst)) (xmmSource p src s))
        ∧ (∃ t, exec (.pcmpeqwXmm p dst src) s = .next t ∧ t.pc = s.pc + BitVec.ofNat 64 (xmmLen p src)
          ∧ t.readVec 128 (vreg dst) = compareWordsEqual (s.readVec 128 (vreg dst)) (xmmSource p src s))
        ∧ ∃ t, exec (.pcmpeqdXmm p dst src) s = .next t ∧ t.pc = s.pc + BitVec.ofNat 64 (xmmLen p src)
          ∧ t.readVec 128 (vreg dst) = compareDwordsEqual (s.readVec 128 (vreg dst)) (xmmSource p src s)

/-- R121, R122, R123, R120: the VEX.128 forms complete whenever they are ready, write the whole of ZMM[dst] with the compare
of the two sources in bits 127:0 and zero above, and advance pc. -/
def Obligations.VpcmpeqXmmCompletes : Prop :=
  ∀ (p : VexPrefix) (dst src1 : Fin 16) (src2 : Rm 16) (s : State),
    formReady .vex128 (vexLen p src2) (vexAccess .v128 p src2 s) s = true →
      (∃ t, exec (.vpcmpeqbXmm p dst src1 src2) s = .next t ∧ t.pc = s.pc + BitVec.ofNat 64 (vexLen p src2)
          ∧ t.readVec 512 (vreg dst)
            = (compareBytesEqual (s.readVec 128 (vreg src1)) (vexSource .v128 p src2 s)).setWidth 512)
        ∧ (∃ t, exec (.vpcmpeqwXmm p dst src1 src2) s = .next t ∧ t.pc = s.pc + BitVec.ofNat 64 (vexLen p src2)
          ∧ t.readVec 512 (vreg dst)
            = (compareWordsEqual (s.readVec 128 (vreg src1)) (vexSource .v128 p src2 s)).setWidth 512)
        ∧ ∃ t, exec (.vpcmpeqdXmm p dst src1 src2) s = .next t ∧ t.pc = s.pc + BitVec.ofNat 64 (vexLen p src2)
          ∧ t.readVec 512 (vreg dst)
            = (compareDwordsEqual (s.readVec 128 (vreg src1)) (vexSource .v128 p src2 s)).setWidth 512

/-- R124, R125, R126, R120: the VEX.256 forms, likewise with 256 bits. -/
def Obligations.VpcmpeqYmmCompletes : Prop :=
  ∀ (p : VexPrefix) (dst src1 : Fin 16) (src2 : Rm 16) (s : State),
    formReady .vex256 (vexLen p src2) (vexAccess .v256 p src2 s) s = true →
      (∃ t, exec (.vpcmpeqbYmm p dst src1 src2) s = .next t ∧ t.pc = s.pc + BitVec.ofNat 64 (vexLen p src2)
          ∧ t.readVec 512 (vreg dst)
            = (eqLanes 8 32 (s.readVec 256 (vreg src1)) (vexSource .v256 p src2 s)).setWidth 512)
        ∧ (∃ t, exec (.vpcmpeqwYmm p dst src1 src2) s = .next t ∧ t.pc = s.pc + BitVec.ofNat 64 (vexLen p src2)
          ∧ t.readVec 512 (vreg dst)
            = (eqLanes 16 16 (s.readVec 256 (vreg src1)) (vexSource .v256 p src2 s)).setWidth 512)
        ∧ ∃ t, exec (.vpcmpeqdYmm p dst src1 src2) s = .next t ∧ t.pc = s.pc + BitVec.ofNat 64 (vexLen p src2)
          ∧ t.readVec 512 (vreg dst)
            = (eqLanes 32 8 (s.readVec 256 (vreg src1)) (vexSource .v256 p src2 s)).setWidth 512

/-- R131, R132, R133, R130: EVEX VPCMPEQD completes whenever it is ready, at each vector length, writes all of K[dst] with
the mask compare under the old writemask, and advances pc. -/
def Obligations.VpcmpeqdMaskCompletes : Prop :=
  ∀ (a32 : Bool) (dst : Fin 8) (mask : Option (Fin 8)) (src1 : Fin 32) (src2 : RmBcst) (s : State),
    (formReady (.evexD .v128) (evexLen a32 src2.len) (evexDAccess .v128 a32 src2 s) s = true →
        ∃ t, exec (.vpcmpeqdK128 a32 dst mask src1 src2) s = .next t
          ∧ t.pc = s.pc + BitVec.ofNat 64 (evexLen a32 src2.len)
          ∧ t.readK dst
            = eqMask 32 4 (s.readVec 128 src1) (evexDSource .v128 a32 src2 s) (s.writemask mask))
      ∧ (formReady (.evexD .v256) (evexLen a32 src2.len) (evexDAccess .v256 a32 src2 s) s = true →
        ∃ t, exec (.vpcmpeqdK256 a32 dst mask src1 src2) s = .next t
          ∧ t.pc = s.pc + BitVec.ofNat 64 (evexLen a32 src2.len)
          ∧ t.readK dst
            = eqMask 32 8 (s.readVec 256 src1) (evexDSource .v256 a32 src2 s) (s.writemask mask))
      ∧ (formReady (.evexD .v512) (evexLen a32 src2.len) (evexDAccess .v512 a32 src2 s) s = true →
        ∃ t, exec (.vpcmpeqdK512 a32 dst mask src1 src2) s = .next t
          ∧ t.pc = s.pc + BitVec.ofNat 64 (evexLen a32 src2.len)
          ∧ t.readK dst
            = eqMask 32 16 (s.readVec 512 src1) (evexDSource .v512 a32 src2 s) (s.writemask mask))

/-- R134, R135, R136, R130: EVEX VPCMPEQB, likewise with 16, 32 and 64 bytes. -/
def Obligations.VpcmpeqbMaskCompletes : Prop :=
  ∀ (a32 : Bool) (dst : Fin 8) (mask : Option (Fin 8)) (src1 : Fin 32) (src2 : Rm 32) (s : State),
    (formReady (.evexBW .v128) (evexLen a32 src2.len) (evexAccess .v128 a32 src2 s) s = true →
        ∃ t, exec (.vpcmpeqbK128 a32 dst mask src1 src2) s = .next t
          ∧ t.pc = s.pc + BitVec.ofNat 64 (evexLen a32 src2.len)
          ∧ t.readK dst
            = eqMask 8 16 (s.readVec 128 src1) (evexSource .v128 a32 src2 s) (s.writemask mask))
      ∧ (formReady (.evexBW .v256) (evexLen a32 src2.len) (evexAccess .v256 a32 src2 s) s = true →
        ∃ t, exec (.vpcmpeqbK256 a32 dst mask src1 src2) s = .next t
          ∧ t.pc = s.pc + BitVec.ofNat 64 (evexLen a32 src2.len)
          ∧ t.readK dst
            = eqMask 8 32 (s.readVec 256 src1) (evexSource .v256 a32 src2 s) (s.writemask mask))
      ∧ (formReady (.evexBW .v512) (evexLen a32 src2.len) (evexAccess .v512 a32 src2 s) s = true →
        ∃ t, exec (.vpcmpeqbK512 a32 dst mask src1 src2) s = .next t
          ∧ t.pc = s.pc + BitVec.ofNat 64 (evexLen a32 src2.len)
          ∧ t.readK dst
            = eqMask 8 64 (s.readVec 512 src1) (evexSource .v512 a32 src2 s) (s.writemask mask))

/-- R137, R138, R139, R130: EVEX VPCMPEQW, likewise with 8, 16 and 32 words. -/
def Obligations.VpcmpeqwMaskCompletes : Prop :=
  ∀ (a32 : Bool) (dst : Fin 8) (mask : Option (Fin 8)) (src1 : Fin 32) (src2 : Rm 32) (s : State),
    (formReady (.evexBW .v128) (evexLen a32 src2.len) (evexAccess .v128 a32 src2 s) s = true →
        ∃ t, exec (.vpcmpeqwK128 a32 dst mask src1 src2) s = .next t
          ∧ t.pc = s.pc + BitVec.ofNat 64 (evexLen a32 src2.len)
          ∧ t.readK dst
            = eqMask 16 8 (s.readVec 128 src1) (evexSource .v128 a32 src2 s) (s.writemask mask))
      ∧ (formReady (.evexBW .v256) (evexLen a32 src2.len) (evexAccess .v256 a32 src2 s) s = true →
        ∃ t, exec (.vpcmpeqwK256 a32 dst mask src1 src2) s = .next t
          ∧ t.pc = s.pc + BitVec.ofNat 64 (evexLen a32 src2.len)
          ∧ t.readK dst
            = eqMask 16 16 (s.readVec 256 src1) (evexSource .v256 a32 src2 s) (s.writemask mask))
      ∧ (formReady (.evexBW .v512) (evexLen a32 src2.len) (evexAccess .v512 a32 src2 s) s = true →
        ∃ t, exec (.vpcmpeqwK512 a32 dst mask src1 src2) s = .next t
          ∧ t.pc = s.pc + BitVec.ofNat 64 (evexLen a32 src2.len)
          ∧ t.readK dst
            = eqMask 16 32 (s.readVec 512 src1) (evexSource .v512 a32 src2 s) (s.writemask mask))

/-! ### Frames -/

/-- R30 row 1, R110: an MMX form that completes changes no register but MM[dst] and pc (and the x87 state it aliases, R27),
no flag and no byte of memory, in its register and its memory form. -/
def Obligations.MmxFormsFrame : Prop :=
  ∀ (p : LegacyPrefix) (dst : Fin 8) (src : Rm 8),
    ∀ i ∈ [Instr.pcmpeqbMm p dst src, .pcmpeqwMm p dst src, .pcmpeqdMm p dst src], ∀ s t : State,
      exec i s = .next t →
        KeepsSystem s t ∧ t.zmm = s.zmm ∧ t.k = s.k ∧ ∀ j, j ≠ dst → t.readMm j = s.readMm j

/-- R30 row 2, R113: a legacy SSE2 form that completes changes no register but bits 127:0 of ZMM[dst] and pc; bits
MAXVL-1:128 of ZMM[dst] are unchanged; no flag, no byte of memory, no MMX or x87 state. -/
def Obligations.SseFormsFrame : Prop :=
  ∀ (p : LegacyPrefix) (dst : Fin 16) (src : Rm 16),
    ∀ i ∈ [Instr.pcmpeqbXmm p dst src, .pcmpeqwXmm p dst src, .pcmpeqdXmm p dst src], ∀ s t : State,
      exec i s = .next t →
        KeepsSystem s t ∧ KeepsMmx s t ∧ t.k = s.k ∧ (∀ j, j ≠ vreg dst → t.readVec 512 j = s.readVec 512 j)
          ∧ (t.readVec 512 (vreg dst)).extractLsb' 128 384 = (s.readVec 512 (vreg dst)).extractLsb' 128 384

/-- R30 rows 3 and 4, R121, R124: a VEX form that completes changes no register but ZMM[dst] and pc; bits of ZMM[dst] above
its vector length are zero; no flag, no byte of memory, no MMX, x87 or opmask state. -/
def Obligations.VexFormsFrame : Prop :=
  ∀ (p : VexPrefix) (dst src1 : Fin 16) (src2 : Rm 16) (s t : State),
    (∀ i ∈ [Instr.vpcmpeqbXmm p dst src1 src2, .vpcmpeqwXmm p dst src1 src2, .vpcmpeqdXmm p dst src1 src2],
        exec i s = .next t →
          KeepsSystem s t ∧ KeepsMmx s t ∧ t.k = s.k ∧ (∀ j, j ≠ vreg dst → t.readVec 512 j = s.readVec 512 j)
            ∧ (t.readVec 512 (vreg dst)).extractLsb' 128 384 = 0)
      ∧ ∀ i ∈ [Instr.vpcmpeqbYmm p dst src1 src2, .vpcmpeqwYmm p dst src1 src2, .vpcmpeqdYmm p dst src1 src2],
        exec i s = .next t →
          KeepsSystem s t ∧ KeepsMmx s t ∧ t.k = s.k ∧ (∀ j, j ≠ vreg dst → t.readVec 512 j = s.readVec 512 j)
            ∧ (t.readVec 512 (vreg dst)).extractLsb' 256 256 = 0

/-- R30 rows 5 and 6: an EVEX form that completes changes no register but K[dst] and pc: no vector register, no MMX or x87
state, no flag and no byte of memory. -/
def Obligations.EvexFormsFrame : Prop :=
  ∀ (a32 : Bool) (dst : Fin 8) (mask : Option (Fin 8)) (src1 : Fin 32) (d : RmBcst) (r : Rm 32),
    ∀ i ∈ [Instr.vpcmpeqdK128 a32 dst mask src1 d, .vpcmpeqdK256 a32 dst mask src1 d, .vpcmpeqdK512 a32 dst mask src1 d,
        .vpcmpeqbK128 a32 dst mask src1 r, .vpcmpeqbK256 a32 dst mask src1 r, .vpcmpeqbK512 a32 dst mask src1 r,
        .vpcmpeqwK128 a32 dst mask src1 r, .vpcmpeqwK256 a32 dst mask src1 r, .vpcmpeqwK512 a32 dst mask src1 r],
      ∀ s t : State, exec i s = .next t →
        KeepsSystem s t ∧ KeepsMmx s t ∧ t.zmm = s.zmm ∧ ∀ j, j ≠ dst → t.readK j = s.readK j

/-- R43: no instruction in scope writes memory: not the bytes, and not what any address reads as. -/
def Obligations.NoInstructionWritesMemory : Prop :=
  ∀ (i : Instr) (s t : State), exec i s = .next t → t.mem = s.mem ∧ ∀ a, t.mem.read a = s.mem.read a

/-- R22: no instruction writes the flags register or MXCSR, none raises a SIMD floating-point exception (#XM, vector 19),
and no bit of either register reaches an outcome except the alignment-check enable, EFLAGS bit 18. -/
def Obligations.FlagsAreNeitherWrittenNorRead : Prop :=
  (∀ (i : Instr) (s t : State), exec i s = .next t → t.eflags = s.eflags ∧ t.mxcsr = s.mxcsr)
    ∧ (∀ (i : Instr) (s : State) (f : BitVec 64) (m : BitVec 32), f.getLsbD 18 = s.eflags.getLsbD 18 →
      exec i { s with eflags := f, mxcsr := m } =
        andThen (exec i s) fun t => .next { t with eflags := f, mxcsr := m })
    ∧ ∀ (i : Instr) (s : State) (e : Fault), exec i s = .fault e → e.vector ≠ 19

/-- R21, R108: an instruction that completes advances pc by its length, within the address space, and by nothing else. -/
def Obligations.EveryInstructionAdvancesPc : Prop :=
  ∀ (i : Instr) (s t : State), exec i s = .next t → t.pc.toNat = s.pc.toNat + i.len ∧ t.pc.toNat < 2 ^ s.addrBits

/-- R131 (corner cases): the old value of K[dst] never reaches the outcome of an EVEX form, unless dst is the writemask. -/
def Obligations.EvexIgnoresOldDestination : Prop :=
  ∀ (a32 : Bool) (dst : Fin 8) (mask : Option (Fin 8)) (src1 : Fin 32) (d : RmBcst) (r : Rm 32) (s : State) (v : Opmask),
    mask ≠ some dst →
      ∀ i ∈ [Instr.vpcmpeqdK128 a32 dst mask src1 d, .vpcmpeqdK256 a32 dst mask src1 d,
          .vpcmpeqdK512 a32 dst mask src1 d, .vpcmpeqbK128 a32 dst mask src1 r, .vpcmpeqbK256 a32 dst mask src1 r,
          .vpcmpeqbK512 a32 dst mask src1 r, .vpcmpeqwK128 a32 dst mask src1 r, .vpcmpeqwK256 a32 dst mask src1 r,
          .vpcmpeqwK512 a32 dst mask src1 r], exec i (s.writeK dst v) = exec i s

/-- R121 (corner cases): the old value of the destination of a VEX form, its upper bits included, never reaches the outcome,
unless the destination is a source. -/
def Obligations.VexIgnoresOldDestination : Prop :=
  ∀ (p : VexPrefix) (dst src1 : Fin 16) (src2 : Rm 16) (s : State) (v : Zmm),
    src1 ≠ dst → src2 ≠ .reg dst →
      ∀ i ∈ [Instr.vpcmpeqbXmm p dst src1 src2, .vpcmpeqwXmm p dst src1 src2, .vpcmpeqdXmm p dst src1 src2,
          .vpcmpeqbYmm p dst src1 src2, .vpcmpeqwYmm p dst src1 src2, .vpcmpeqdYmm p dst src1 src2],
        exec i (s.writeZmm (vreg dst) v) = exec i s

/-! ### Exceptions -/

/-- R152 to R155, R156 items 0 and 3: a form whose CPUID flag is 0 or whose state class is not enabled raises #UD, whatever
the other enables, unless the step is refused. -/
def Obligations.UnsupportedFormRaisesUd : Prop :=
  ∀ (i : Instr) (s : State), pcFits i.len s = true → alignmentRefused i.formClass (i.access s) s = false →
    (i.formClass.supported s.cfg.feat && i.formClass.enabled s) = false → exec i s = .fault (.ud s.pc)

/-- R152 to R154, R156 item 4: CR0.TS = 1 makes every supported and enabled form raise #NM, before #MF and operand faults. -/
def Obligations.TaskSwitchedRaisesNm : Prop :=
  ∀ (i : Instr) (s : State), pcFits i.len s = true → alignmentRefused i.formClass (i.access s) s = false →
    (i.formClass.supported s.cfg.feat && i.formClass.enabled s) = true → s.ts = true → exec i s = .fault (.nm s.pc)

/-- R153, R156 item 5: a pending x87 exception makes every MMX form raise #MF, before operand faults. -/
def Obligations.PendingX87ExceptionRaisesMf : Prop :=
  ∀ (i : Instr) (s : State), i.formClass = .mmx → pcFits i.len s = true → s.cfg.feat.mmx = true → s.mmxEnabled = true →
    s.ts = false → s.cfg.x87Pending = true → exec i s = .fault (.mf s.pc)

/-- R44: a legacy SSE2 operand not aligned to 16 bytes raises #GP(0), whatever alignment checking says and whether or not
the operand is canonical and accessible. -/
def Obligations.MisalignedSseOperandRaisesGp : Prop :=
  ∀ (i : Instr) (s : State) (a : Access), i.formClass = .sse2 → pcFits i.len s = true → formAllowed .sse2 s = true →
    i.access s = some a → a.addr.toNat % 16 ≠ 0 → exec i s = .fault (.gp s.pc)

/-- R46: in 64-bit mode a memory operand with a non-canonical byte raises #SS(0) if its default segment is SS and #GP(0)
otherwise, before #PF. -/
def Obligations.NonCanonicalOperandFaults : Prop :=
  ∀ (i : Instr) (s : State) (a : Access), pcFits i.len s = true → formAllowed i.formClass s = true →
    i.access s = some a → alignmentRefused i.formClass (some a) s = false →
    (i.formClass = .sse2 → a.addr.toNat % 16 = 0) → s.cfg.mode64 = true →
    ∀ j, j < a.bytes → canonical s.cfg.laBits (a.addr.toNat + j) = false →
      exec i s = if a.ss then .fault (.ss s.pc) else .fault (.gp s.pc)

/-- R46, R55: a memory operand within the address space, with no byte in device memory and an inaccessible byte, raises #PF at
the first such byte, whatever the writemask (no suppression, the spec's decision D9: notes/assumptions/25.md). -/
def Obligations.InaccessibleOperandRaisesPf : Prop :=
  ∀ (i : Instr) (s : State) (a : Access) (j : Nat), pcFits i.len s = true → formAllowed i.formClass s = true →
    i.access s = some a → a.addr.toNat + a.bytes ≤ 2 ^ s.addrBits → alignmentRefused i.formClass (some a) s = false →
    (i.formClass = .sse2 → a.addr.toNat % 16 = 0) →
    (s.cfg.mode64 = true → ∀ n, n < a.bytes → canonical s.cfg.laBits (a.addr.toNat + n) = true) →
    (∀ n, n < a.bytes → s.onDevice (a.addr.toNat + n) = false) →
    j < a.bytes → (∀ n, n < j → s.byteAccessible (a.addr.toNat + n) = true) →
    s.byteAccessible (a.addr.toNat + j) = false →
      exec i s = .fault (.pf (BitVec.ofNat 64 (a.addr.toNat + j)) s.pc)

/-- The model's choice (notes/assumptions/18.md) where R46 is silent: a memory operand that runs past the top of the address
space, its bytes below the top accessible, raises #PF at the top, the address taken modulo 2^64. -/
def Obligations.OperandAcrossTheTopRaisesPf : Prop :=
  ∀ (i : Instr) (s : State) (a : Access), pcFits i.len s = true → formAllowed i.formClass s = true →
    i.access s = some a → 2 ^ s.addrBits < a.addr.toNat + a.bytes → alignmentRefused i.formClass (some a) s = false →
    (i.formClass = .sse2 → a.addr.toNat % 16 = 0) →
    (s.cfg.mode64 = true → ∀ n, n < a.bytes → canonical s.cfg.laBits (a.addr.toNat + n) = true) →
    (∀ n, n < a.bytes → s.onDevice (a.addr.toNat + n) = false) →
    (∀ n, n < a.bytes → a.addr.toNat + n < 2 ^ s.addrBits → s.byteAccessible (a.addr.toNat + n) = true) →
      exec i s = .fault (.pf (BitVec.ofNat 64 (2 ^ s.addrBits)) s.pc)

/-- R48, R163 (and U14 of 93_implementation_defined.md): a memory operand with a byte in device memory is refused, by its own
name. That this is asked where R46 asks whether the operand is accessible is the model's choice (notes/assumptions/24.md). -/
def Obligations.DeviceOperandIsRefused : Prop :=
  ∀ (i : Instr) (s : State) (a : Access) (j : Nat), pcFits i.len s = true → formAllowed i.formClass s = true →
    i.access s = some a → alignmentRefused i.formClass (some a) s = false →
    (i.formClass = .sse2 → a.addr.toNat % 16 = 0) →
    (s.cfg.mode64 = true → ∀ n, n < a.bytes → canonical s.cfg.laBits (a.addr.toNat + n) = true) →
    j < a.bytes → s.onDevice (a.addr.toNat + j) = true → exec i s = .refused .deviceMemory

/-- R44, R153: under alignment checking an MMX form with a readable m64 that is not 8-byte aligned raises #AC(0). -/
def Obligations.MisalignedMmxOperandRaisesAc : Prop :=
  ∀ (i : Instr) (s : State) (a : Access), i.formClass = .mmx → pcFits i.len s = true → formAllowed .mmx s = true →
    i.access s = some a → s.acChecking = true → a.addr.toNat % 8 ≠ 0 →
    (s.cfg.mode64 = true → ∀ n, n < 8 → canonical s.cfg.laBits (a.addr.toNat + n) = true) →
    (∀ n, n < 8 → s.byteAccessible (a.addr.toNat + n) = true) → exec i s = .fault (.ac s.pc)

/-- R44, R156 item 0: under alignment checking a VEX or EVEX form with a misaligned memory operand is refused, before any
exception is asked for. -/
def Obligations.MisalignedVexOrEvexOperandIsRefused : Prop :=
  ∀ (i : Instr) (s : State) (a : Access), i.formClass ≠ .mmx → i.formClass ≠ .sse2 → pcFits i.len s = true →
    i.access s = some a → s.acChecking = true → a.addr.toNat % a.bytes ≠ 0 →
      exec i s = .refused .alignmentCheckUnmodelled

/-- R55, R154: no fault suppression: whether an EVEX form goes on, faults or is refused, and how, depends neither on which
writemask it names nor on the opmask registers' values. This is the spec's decision D9 (notes/assumptions/25.md); R55 believes
that real processors suppress faults on masked-off elements. -/
def Obligations.WritemaskSuppressesNoFault : Prop :=
  ∀ (a32 : Bool) (dst : Fin 8) (m m' : Option (Fin 8)) (src1 : Fin 32) (d : RmBcst) (r : Rm 32) (s : State)
    (regs : Vector Opmask 8),
    ∀ form ∈ [fun k => Instr.vpcmpeqdK128 a32 dst k src1 d, fun k => .vpcmpeqdK256 a32 dst k src1 d,
        fun k => .vpcmpeqdK512 a32 dst k src1 d, fun k => .vpcmpeqbK128 a32 dst k src1 r,
        fun k => .vpcmpeqbK256 a32 dst k src1 r, fun k => .vpcmpeqbK512 a32 dst k src1 r,
        fun k => .vpcmpeqwK128 a32 dst k src1 r, fun k => .vpcmpeqwK256 a32 dst k src1 r,
        fun k => .vpcmpeqwK512 a32 dst k src1 r],
      andThen (exec (form m) s) (fun _ => .next ()) = andThen (exec (form m') { s with k := regs }) fun _ => .next ()

/-- R157: every exception a step raises records the pc of the faulting instruction. -/
def Obligations.FaultsRecordTheInstructionsPc : Prop :=
  ∀ (s : State) (f : Fault), step s = .fault f → f.pc = s.pc

/-! ### Invariant -/

/-- R7 to R9, R21, R24, R25, R181: every step keeps the invariant: a configuration the spec allows, no register bit above
MAXVL or MAX_KL, a 32-bit pc outside 64-bit mode, SSE enabled where AVX is, and memory in canonical form. -/
def Obligations.StepKeepsTheInvariant : Prop :=
  ∀ s t : State, s.Inv → step s = .next t → t.Inv

/-- The launch state has the invariant; its values are the model's choices (notes/assumptions/1.md to 4.md). -/
def Obligations.ResetHasTheInvariant : Prop := State.reset.Inv
end

