-- ==== Sys2Proof/Laws/Encoding.lean ====
section
/-! SUPPORT. The encoder writes one of the spellings of an instruction. -/

namespace Sys2Proof.Laws

open Machine

/-- A bit that is 0 where it is free is one of its choices. -/
theorem mem_bitChoices (free : Bool) (bit : Nat) (h : free = true → bit = 0) : bit ∈ bitChoices free bit := by
  cases free <;> simp_all [bitChoices]

/-- The encoder's X and B bits are among those that may stand. -/
theorem mem_extBits (mode64 : Bool) {n : Nat} (src : Rm n) : (src.xBit, src.bBit) ∈ src.extBits mode64 := by
  have hx : (mode64 && !src.usesX) = true → src.xBit = 0 := by
    cases src with
    | reg r => simp [Rm.usesX, Rm.xBit]; omega
    | mem m => cases m <;> simp [Rm.usesX, Rm.xBit, MemOp.xBit]
  have hb : (mode64 && !src.usesB) = true → src.bBit = 0 := by
    cases src with
    | reg r => simp [Rm.usesB]
    | mem m => cases m <;> simp [Rm.usesB, Rm.bBit, MemOp.bBit]
  exact List.mem_flatMap.2 ⟨_, mem_bitChoices _ _ hx, List.mem_map.2 ⟨_, mem_bitChoices _ _ hb, rfl⟩⟩

theorem legacyBody_mem (mode64 : Bool) (e : Elem) (p : LegacyPrefix) (dst : Nat) {n : Nat} (src : Rm n) :
    legacyBody e p.rex dst src src.xBit src.bBit ∈ legacyBodies mode64 e p dst src :=
  List.mem_map.2 ⟨_, mem_extBits mode64 src, rfl⟩

theorem vexBody_mem (mode64 : Bool) (e : Elem) (l : Nat) (p : VexPrefix) (dst src1 : Fin 16) (src2 : Rm 16) :
    vexBody e l p.three dst src1 src2 0 src2.xBit src2.bBit ∈ vexBodies mode64 e l p dst src1 src2 :=
  List.mem_flatMap.2 ⟨_, mem_extBits mode64 src2, List.mem_map.2 ⟨0, by simp, rfl⟩⟩

theorem evexBody_mem (mode64 : Bool) (e : Elem) (ll bc : Nat) (dst : Fin 8) (mask : Option (Fin 8)) (src1 : Fin 32)
    (src2 : Rm 32) : evexBody e ll bc dst mask src1 src2 0 src2.xBit src2.bBit
      ∈ evexBodies mode64 e ll bc dst mask src1 src2 :=
  List.mem_flatMap.2 ⟨_, mem_extBits mode64 src2, List.mem_map.2 ⟨0, mem_bitChoices _ _ fun _ => rfl, rfl⟩⟩

/-- The encoder writes one of the spellings. -/
theorem encode_spelledBy (mode64 : Bool) (i : Instr) : i.SpelledBy mode64 (encode i) := by
  refine ⟨i.prefixes, (encode i).drop i.prefixes.length, List.Perm.refl _, ?_, ?_⟩
  · cases i <;>
      simp only [encode, encodeLegacy, encodeVex, encodeEvex, Instr.prefixes, Instr.addr32, Instr.formClass, reduceCtorEq,
        if_true, if_false, Bool.false_eq_true, List.append_nil, List.drop_left', Instr.bodies] <;>
      first | apply legacyBody_mem | apply vexBody_mem | apply evexBody_mem
  · cases i <;>
      simp [encode, encodeLegacy, encodeVex, encodeEvex, Instr.prefixes, Instr.addr32, Instr.formClass]

end Sys2Proof.Laws
end

