-- ==== Sys2Proof/Laws/Memory.lean ====
section
/-! SUPPORT. Memory: a read after a write, and the canonical form kept by every operation. -/

namespace Sys2Proof.Machine

theorem readCells_writeCells_same (cs : List Host.Cell) (a : Nat) (v : Byte)
    (h : cs.Pairwise (fun c d => c.1 < d.1)) : readCells (writeCells cs a v) a = v := by
  induction cs with
  | nil => by_cases hv : v = Memory.unlisted <;> simp [writeCells, readCells, hv]
  | cons c cs ih =>
    obtain ⟨k, w⟩ := c
    rw [List.pairwise_cons] at h
    have above : ∀ b, b ≤ k → readCells cs b = Memory.unlisted := by
      intro b hb
      have hc := h.1
      clear ih h
      induction cs with
      | nil => rfl
      | cons d ds ihd =>
        have hd := hc d (by simp)
        have : d.1 ≠ b := by simp at hd; omega
        simp [readCells, this]
        exact ihd (fun e he => hc e (by simp [he]))
    simp only [writeCells]
    by_cases h1 : a < k
    · by_cases hv : v = Memory.unlisted
      · have : k ≠ a := by omega
        simp [h1, hv, readCells, this, above a (by omega)]
      · simp [h1, hv, readCells]
    · by_cases h2 : a = k
      · subst h2
        by_cases hv : v = Memory.unlisted
        · simp [hv, above]
        · simp [hv, readCells]
      · have : k ≠ a := fun e => h2 e.symm
        simp [h1, h2, readCells, this, ih h.2]

theorem readCells_writeCells_other (cs : List Host.Cell) (a b : Nat) (v : Byte) (hab : b ≠ a) :
    readCells (writeCells cs a v) b = readCells cs b := by
  have hab' : a ≠ b := fun e => hab e.symm
  induction cs with
  | nil => by_cases hv : v = Memory.unlisted <;> simp [writeCells, readCells, hv, hab']
  | cons c cs ih =>
    obtain ⟨k, w⟩ := c
    simp only [writeCells]
    by_cases h1 : a < k
    · by_cases hv : v = Memory.unlisted <;> simp [h1, hv, readCells, hab']
    · by_cases h2 : a = k
      · subst h2
        by_cases hv : v = Memory.unlisted <;> simp [hv, readCells, hab']
      · rw [if_neg h1, if_neg h2]
        simp only [readCells, ih]

theorem mem_writeCells {cs : List Host.Cell} {a : Nat} {v : Byte} {c : Host.Cell} (h : c ∈ writeCells cs a v) :
    c ∈ cs ∨ c = (a, v) ∧ v ≠ Memory.unlisted := by
  induction cs with
  | nil => by_cases hv : v = Memory.unlisted <;> simp_all [writeCells]
  | cons d cs ih =>
    obtain ⟨k, w⟩ := d
    simp only [writeCells] at h
    split at h
    · split at h
      · exact .inl h
      · rcases List.mem_cons.1 h with rfl | h
        · exact .inr ⟨rfl, by assumption⟩
        · exact .inl h
    · split at h
      · split at h
        · exact .inl (List.mem_cons_of_mem _ h)
        · rcases List.mem_cons.1 h with rfl | h
          · exact .inr ⟨rfl, by assumption⟩
          · exact .inl (List.mem_cons_of_mem _ h)
      · rcases List.mem_cons.1 h with rfl | h
        · exact .inl (by simp)
        · exact (ih h).imp (List.mem_cons_of_mem _) id

/-- A byte written reads back, in a memory of canonical form. -/
theorem read_write_same (m : Memory) (a : Nat) (v : Byte) (h : m.wf) : (m.write a v).read a = v :=
  readCells_writeCells_same m.cells a v h.1

/-- A write leaves every other byte alone. -/
theorem read_write_other (m : Memory) (a b : Nat) (v : Byte) (h : b ≠ a) : (m.write a v).read b = m.read b :=
  readCells_writeCells_other m.cells a b v h

/-- A write keeps the canonical form. -/
theorem write_wf (m : Memory) (a : Nat) (v : Byte) (h : m.wf) : (m.write a v).wf := by
  obtain ⟨cs⟩ := m
  obtain ⟨hs, hn⟩ := h
  refine ⟨?_, ?_⟩
  · show (writeCells cs a v).Pairwise _
    replace hs : cs.Pairwise (fun c d => c.1 < d.1) := hs
    clear hn
    induction cs with
    | nil => by_cases hv : v = Memory.unlisted <;> simp [writeCells, hv]
    | cons c cs ih =>
      obtain ⟨k, w⟩ := c
      have hs' := hs
      rw [List.pairwise_cons] at hs
      simp only [writeCells]
      by_cases h1 : a < k
      · by_cases hv : v = Memory.unlisted
        · simpa [h1, hv] using hs'
        · simp only [h1, hv, if_true, if_false]
          refine List.pairwise_cons.2 ⟨?_, hs'⟩
          intro d hd
          rcases List.mem_cons.1 hd with rfl | hd
          · exact h1
          · exact Nat.lt_trans h1 (hs.1 d hd)
      · by_cases h2 : a = k
        · subst h2
          by_cases hv : v = Memory.unlisted
          · simpa [hv] using hs.2
          · simpa [hv] using hs
        · simp only [h1, h2, if_false]
          refine List.pairwise_cons.2 ⟨?_, ih hs.2⟩
          intro d hd
          rcases mem_writeCells hd with hd | ⟨rfl, _⟩
          · exact hs.1 d hd
          · show k < a
            omega
  · intro c hc
    rcases mem_writeCells hc with hc | ⟨rfl, hv⟩
    · exact hn c hc
    · exact hv

/-- Writing bytes at rising addresses keeps the canonical form. -/
theorem writeBytes_wf (m : Memory) (a : Nat) (bs : List Byte) (h : m.wf) : (m.writeBytes a bs).wf := by
  induction bs generalizing m a with
  | nil => exact h
  | cons b bs ih => exact ih _ _ (write_wf m a b h)

/-- The launch memory is in canonical form. -/
theorem reset_mem_wf : State.reset.mem.wf := by
  refine ⟨List.Pairwise.nil, ?_⟩
  intro c hc
  cases hc

/-- Placing an instruction at pc keeps memory's canonical form. -/
theorem placeAtPc_mem_wf (s : State) (bs : List Byte) (h : s.mem.wf) : (s.placeAtPc bs).mem.wf :=
  writeBytes_wf _ _ _ h

end Sys2Proof.Machine
end

