-- ==== Sys2Proof/Laws/State.lean ====
section
/-! SUPPORT. One lemma per field per update of State, and what a register reads after a write. -/

namespace Sys2Proof.Machine

section Updates

variable (s : State)

@[simp] theorem enterMmx_cfg : (s.enterMmx).cfg = s.cfg := rfl
@[simp] theorem enterMmx_pc : (s.enterMmx).pc = s.pc := rfl
@[simp] theorem enterMmx_x : (s.enterMmx).x = s.x := rfl
@[simp] theorem enterMmx_mm : (s.enterMmx).mm = s.mm := rfl
@[simp] theorem enterMmx_zmm : (s.enterMmx).zmm = s.zmm := rfl
@[simp] theorem enterMmx_k : (s.enterMmx).k = s.k := rfl
@[simp] theorem enterMmx_eflags : (s.enterMmx).eflags = s.eflags := rfl
@[simp] theorem enterMmx_mxcsr : (s.enterMmx).mxcsr = s.mxcsr := rfl
@[simp] theorem enterMmx_cr0 : (s.enterMmx).cr0 = s.cr0 := rfl
@[simp] theorem enterMmx_cr4 : (s.enterMmx).cr4 = s.cr4 := rfl
@[simp] theorem enterMmx_xcr0 : (s.enterMmx).xcr0 = s.xcr0 := rfl
@[simp] theorem enterMmx_cpl : (s.enterMmx).cpl = s.cpl := rfl
@[simp] theorem enterMmx_x87Top : (s.enterMmx).x87Top = 0 := rfl
@[simp] theorem enterMmx_x87Tags : (s.enterMmx).x87Tags = Vector.replicate 8 0 := rfl
@[simp] theorem enterMmx_x87Upper : (s.enterMmx).x87Upper = s.x87Upper := rfl
@[simp] theorem enterMmx_mem : (s.enterMmx).mem = s.mem := rfl
@[simp] theorem enterMmx_accessible : (s.enterMmx).accessible = s.accessible := rfl
@[simp] theorem enterMmx_devices : (s.enterMmx).devices = s.devices := rfl
@[simp] theorem enterMmx_otherWriters : (s.enterMmx).otherWriters = s.otherWriters := rfl
@[simp] theorem enterMmx_reads : (s.enterMmx).reads = s.reads := rfl
@[simp] theorem enterMmx_endAddr : (s.enterMmx).endAddr = s.endAddr := rfl

@[simp] theorem writeMm_cfg (i : Fin 8) (v : Mm) : (s.writeMm i v).cfg = s.cfg := rfl
@[simp] theorem writeMm_pc (i : Fin 8) (v : Mm) : (s.writeMm i v).pc = s.pc := rfl
@[simp] theorem writeMm_x (i : Fin 8) (v : Mm) : (s.writeMm i v).x = s.x := rfl
@[simp] theorem writeMm_mm (i : Fin 8) (v : Mm) : (s.writeMm i v).mm = s.mm.set i v := rfl
@[simp] theorem writeMm_zmm (i : Fin 8) (v : Mm) : (s.writeMm i v).zmm = s.zmm := rfl
@[simp] theorem writeMm_k (i : Fin 8) (v : Mm) : (s.writeMm i v).k = s.k := rfl
@[simp] theorem writeMm_eflags (i : Fin 8) (v : Mm) : (s.writeMm i v).eflags = s.eflags := rfl
@[simp] theorem writeMm_mxcsr (i : Fin 8) (v : Mm) : (s.writeMm i v).mxcsr = s.mxcsr := rfl
@[simp] theorem writeMm_cr0 (i : Fin 8) (v : Mm) : (s.writeMm i v).cr0 = s.cr0 := rfl
@[simp] theorem writeMm_cr4 (i : Fin 8) (v : Mm) : (s.writeMm i v).cr4 = s.cr4 := rfl
@[simp] theorem writeMm_xcr0 (i : Fin 8) (v : Mm) : (s.writeMm i v).xcr0 = s.xcr0 := rfl
@[simp] theorem writeMm_cpl (i : Fin 8) (v : Mm) : (s.writeMm i v).cpl = s.cpl := rfl
@[simp] theorem writeMm_x87Top (i : Fin 8) (v : Mm) : (s.writeMm i v).x87Top = s.x87Top := rfl
@[simp] theorem writeMm_x87Tags (i : Fin 8) (v : Mm) : (s.writeMm i v).x87Tags = s.x87Tags := rfl
@[simp] theorem writeMm_x87Upper (i : Fin 8) (v : Mm) : (s.writeMm i v).x87Upper = s.x87Upper.set i 0xFFFF := rfl
@[simp] theorem writeMm_mem (i : Fin 8) (v : Mm) : (s.writeMm i v).mem = s.mem := rfl
@[simp] theorem writeMm_accessible (i : Fin 8) (v : Mm) : (s.writeMm i v).accessible = s.accessible := rfl
@[simp] theorem writeMm_devices (i : Fin 8) (v : Mm) : (s.writeMm i v).devices = s.devices := rfl
@[simp] theorem writeMm_otherWriters (i : Fin 8) (v : Mm) : (s.writeMm i v).otherWriters = s.otherWriters := rfl
@[simp] theorem writeMm_reads (i : Fin 8) (v : Mm) : (s.writeMm i v).reads = s.reads := rfl
@[simp] theorem writeMm_endAddr (i : Fin 8) (v : Mm) : (s.writeMm i v).endAddr = s.endAddr := rfl

@[simp] theorem writeZmm_cfg (i : Fin 32) (v : Zmm) : (s.writeZmm i v).cfg = s.cfg := rfl
@[simp] theorem writeZmm_pc (i : Fin 32) (v : Zmm) : (s.writeZmm i v).pc = s.pc := rfl
@[simp] theorem writeZmm_x (i : Fin 32) (v : Zmm) : (s.writeZmm i v).x = s.x := rfl
@[simp] theorem writeZmm_mm (i : Fin 32) (v : Zmm) : (s.writeZmm i v).mm = s.mm := rfl
@[simp] theorem writeZmm_zmm (i : Fin 32) (v : Zmm) : (s.writeZmm i v).zmm = s.zmm.set i v := rfl
@[simp] theorem writeZmm_k (i : Fin 32) (v : Zmm) : (s.writeZmm i v).k = s.k := rfl
@[simp] theorem writeZmm_eflags (i : Fin 32) (v : Zmm) : (s.writeZmm i v).eflags = s.eflags := rfl
@[simp] theorem writeZmm_mxcsr (i : Fin 32) (v : Zmm) : (s.writeZmm i v).mxcsr = s.mxcsr := rfl
@[simp] theorem writeZmm_cr0 (i : Fin 32) (v : Zmm) : (s.writeZmm i v).cr0 = s.cr0 := rfl
@[simp] theorem writeZmm_cr4 (i : Fin 32) (v : Zmm) : (s.writeZmm i v).cr4 = s.cr4 := rfl
@[simp] theorem writeZmm_xcr0 (i : Fin 32) (v : Zmm) : (s.writeZmm i v).xcr0 = s.xcr0 := rfl
@[simp] theorem writeZmm_cpl (i : Fin 32) (v : Zmm) : (s.writeZmm i v).cpl = s.cpl := rfl
@[simp] theorem writeZmm_x87Top (i : Fin 32) (v : Zmm) : (s.writeZmm i v).x87Top = s.x87Top := rfl
@[simp] theorem writeZmm_x87Tags (i : Fin 32) (v : Zmm) : (s.writeZmm i v).x87Tags = s.x87Tags := rfl
@[simp] theorem writeZmm_x87Upper (i : Fin 32) (v : Zmm) : (s.writeZmm i v).x87Upper = s.x87Upper := rfl
@[simp] theorem writeZmm_mem (i : Fin 32) (v : Zmm) : (s.writeZmm i v).mem = s.mem := rfl
@[simp] theorem writeZmm_accessible (i : Fin 32) (v : Zmm) : (s.writeZmm i v).accessible = s.accessible := rfl
@[simp] theorem writeZmm_devices (i : Fin 32) (v : Zmm) : (s.writeZmm i v).devices = s.devices := rfl
@[simp] theorem writeZmm_otherWriters (i : Fin 32) (v : Zmm) : (s.writeZmm i v).otherWriters = s.otherWriters := rfl
@[simp] theorem writeZmm_reads (i : Fin 32) (v : Zmm) : (s.writeZmm i v).reads = s.reads := rfl
@[simp] theorem writeZmm_endAddr (i : Fin 32) (v : Zmm) : (s.writeZmm i v).endAddr = s.endAddr := rfl

@[simp] theorem writeXmm_cfg (i : Fin 32) (v : BitVec 128) : (s.writeXmm i v).cfg = s.cfg := rfl
@[simp] theorem writeXmm_pc (i : Fin 32) (v : BitVec 128) : (s.writeXmm i v).pc = s.pc := rfl
@[simp] theorem writeXmm_x (i : Fin 32) (v : BitVec 128) : (s.writeXmm i v).x = s.x := rfl
@[simp] theorem writeXmm_mm (i : Fin 32) (v : BitVec 128) : (s.writeXmm i v).mm = s.mm := rfl
@[simp] theorem writeXmm_zmm (i : Fin 32) (v : BitVec 128) : (s.writeXmm i v).zmm = s.zmm.set i (s.zmm[i] >>> 128 <<< 128 ||| v.setWidth 512) := rfl
@[simp] theorem writeXmm_k (i : Fin 32) (v : BitVec 128) : (s.writeXmm i v).k = s.k := rfl
@[simp] theorem writeXmm_eflags (i : Fin 32) (v : BitVec 128) : (s.writeXmm i v).eflags = s.eflags := rfl
@[simp] theorem writeXmm_mxcsr (i : Fin 32) (v : BitVec 128) : (s.writeXmm i v).mxcsr = s.mxcsr := rfl
@[simp] theorem writeXmm_cr0 (i : Fin 32) (v : BitVec 128) : (s.writeXmm i v).cr0 = s.cr0 := rfl
@[simp] theorem writeXmm_cr4 (i : Fin 32) (v : BitVec 128) : (s.writeXmm i v).cr4 = s.cr4 := rfl
@[simp] theorem writeXmm_xcr0 (i : Fin 32) (v : BitVec 128) : (s.writeXmm i v).xcr0 = s.xcr0 := rfl
@[simp] theorem writeXmm_cpl (i : Fin 32) (v : BitVec 128) : (s.writeXmm i v).cpl = s.cpl := rfl
@[simp] theorem writeXmm_x87Top (i : Fin 32) (v : BitVec 128) : (s.writeXmm i v).x87Top = s.x87Top := rfl
@[simp] theorem writeXmm_x87Tags (i : Fin 32) (v : BitVec 128) : (s.writeXmm i v).x87Tags = s.x87Tags := rfl
@[simp] theorem writeXmm_x87Upper (i : Fin 32) (v : BitVec 128) : (s.writeXmm i v).x87Upper = s.x87Upper := rfl
@[simp] theorem writeXmm_mem (i : Fin 32) (v : BitVec 128) : (s.writeXmm i v).mem = s.mem := rfl
@[simp] theorem writeXmm_accessible (i : Fin 32) (v : BitVec 128) : (s.writeXmm i v).accessible = s.accessible := rfl
@[simp] theorem writeXmm_devices (i : Fin 32) (v : BitVec 128) : (s.writeXmm i v).devices = s.devices := rfl
@[simp] theorem writeXmm_otherWriters (i : Fin 32) (v : BitVec 128) : (s.writeXmm i v).otherWriters = s.otherWriters := rfl
@[simp] theorem writeXmm_reads (i : Fin 32) (v : BitVec 128) : (s.writeXmm i v).reads = s.reads := rfl
@[simp] theorem writeXmm_endAddr (i : Fin 32) (v : BitVec 128) : (s.writeXmm i v).endAddr = s.endAddr := rfl

@[simp] theorem writeVec_cfg {w : Nat} (i : Fin 32) (v : BitVec w) : (s.writeVec i v).cfg = s.cfg := rfl
@[simp] theorem writeVec_pc {w : Nat} (i : Fin 32) (v : BitVec w) : (s.writeVec i v).pc = s.pc := rfl
@[simp] theorem writeVec_x {w : Nat} (i : Fin 32) (v : BitVec w) : (s.writeVec i v).x = s.x := rfl
@[simp] theorem writeVec_mm {w : Nat} (i : Fin 32) (v : BitVec w) : (s.writeVec i v).mm = s.mm := rfl
@[simp] theorem writeVec_zmm {w : Nat} (i : Fin 32) (v : BitVec w) : (s.writeVec i v).zmm = s.zmm.set i (v.setWidth 512) := rfl
@[simp] theorem writeVec_k {w : Nat} (i : Fin 32) (v : BitVec w) : (s.writeVec i v).k = s.k := rfl
@[simp] theorem writeVec_eflags {w : Nat} (i : Fin 32) (v : BitVec w) : (s.writeVec i v).eflags = s.eflags := rfl
@[simp] theorem writeVec_mxcsr {w : Nat} (i : Fin 32) (v : BitVec w) : (s.writeVec i v).mxcsr = s.mxcsr := rfl
@[simp] theorem writeVec_cr0 {w : Nat} (i : Fin 32) (v : BitVec w) : (s.writeVec i v).cr0 = s.cr0 := rfl
@[simp] theorem writeVec_cr4 {w : Nat} (i : Fin 32) (v : BitVec w) : (s.writeVec i v).cr4 = s.cr4 := rfl
@[simp] theorem writeVec_xcr0 {w : Nat} (i : Fin 32) (v : BitVec w) : (s.writeVec i v).xcr0 = s.xcr0 := rfl
@[simp] theorem writeVec_cpl {w : Nat} (i : Fin 32) (v : BitVec w) : (s.writeVec i v).cpl = s.cpl := rfl
@[simp] theorem writeVec_x87Top {w : Nat} (i : Fin 32) (v : BitVec w) : (s.writeVec i v).x87Top = s.x87Top := rfl
@[simp] theorem writeVec_x87Tags {w : Nat} (i : Fin 32) (v : BitVec w) : (s.writeVec i v).x87Tags = s.x87Tags := rfl
@[simp] theorem writeVec_x87Upper {w : Nat} (i : Fin 32) (v : BitVec w) : (s.writeVec i v).x87Upper = s.x87Upper := rfl
@[simp] theorem writeVec_mem {w : Nat} (i : Fin 32) (v : BitVec w) : (s.writeVec i v).mem = s.mem := rfl
@[simp] theorem writeVec_accessible {w : Nat} (i : Fin 32) (v : BitVec w) : (s.writeVec i v).accessible = s.accessible := rfl
@[simp] theorem writeVec_devices {w : Nat} (i : Fin 32) (v : BitVec w) : (s.writeVec i v).devices = s.devices := rfl
@[simp] theorem writeVec_otherWriters {w : Nat} (i : Fin 32) (v : BitVec w) : (s.writeVec i v).otherWriters = s.otherWriters := rfl
@[simp] theorem writeVec_reads {w : Nat} (i : Fin 32) (v : BitVec w) : (s.writeVec i v).reads = s.reads := rfl
@[simp] theorem writeVec_endAddr {w : Nat} (i : Fin 32) (v : BitVec w) : (s.writeVec i v).endAddr = s.endAddr := rfl

@[simp] theorem writeK_cfg (i : Fin 8) (v : Opmask) : (s.writeK i v).cfg = s.cfg := rfl
@[simp] theorem writeK_pc (i : Fin 8) (v : Opmask) : (s.writeK i v).pc = s.pc := rfl
@[simp] theorem writeK_x (i : Fin 8) (v : Opmask) : (s.writeK i v).x = s.x := rfl
@[simp] theorem writeK_mm (i : Fin 8) (v : Opmask) : (s.writeK i v).mm = s.mm := rfl
@[simp] theorem writeK_zmm (i : Fin 8) (v : Opmask) : (s.writeK i v).zmm = s.zmm := rfl
@[simp] theorem writeK_k (i : Fin 8) (v : Opmask) : (s.writeK i v).k = s.k.set i v := rfl
@[simp] theorem writeK_eflags (i : Fin 8) (v : Opmask) : (s.writeK i v).eflags = s.eflags := rfl
@[simp] theorem writeK_mxcsr (i : Fin 8) (v : Opmask) : (s.writeK i v).mxcsr = s.mxcsr := rfl
@[simp] theorem writeK_cr0 (i : Fin 8) (v : Opmask) : (s.writeK i v).cr0 = s.cr0 := rfl
@[simp] theorem writeK_cr4 (i : Fin 8) (v : Opmask) : (s.writeK i v).cr4 = s.cr4 := rfl
@[simp] theorem writeK_xcr0 (i : Fin 8) (v : Opmask) : (s.writeK i v).xcr0 = s.xcr0 := rfl
@[simp] theorem writeK_cpl (i : Fin 8) (v : Opmask) : (s.writeK i v).cpl = s.cpl := rfl
@[simp] theorem writeK_x87Top (i : Fin 8) (v : Opmask) : (s.writeK i v).x87Top = s.x87Top := rfl
@[simp] theorem writeK_x87Tags (i : Fin 8) (v : Opmask) : (s.writeK i v).x87Tags = s.x87Tags := rfl
@[simp] theorem writeK_x87Upper (i : Fin 8) (v : Opmask) : (s.writeK i v).x87Upper = s.x87Upper := rfl
@[simp] theorem writeK_mem (i : Fin 8) (v : Opmask) : (s.writeK i v).mem = s.mem := rfl
@[simp] theorem writeK_accessible (i : Fin 8) (v : Opmask) : (s.writeK i v).accessible = s.accessible := rfl
@[simp] theorem writeK_devices (i : Fin 8) (v : Opmask) : (s.writeK i v).devices = s.devices := rfl
@[simp] theorem writeK_otherWriters (i : Fin 8) (v : Opmask) : (s.writeK i v).otherWriters = s.otherWriters := rfl
@[simp] theorem writeK_reads (i : Fin 8) (v : Opmask) : (s.writeK i v).reads = s.reads := rfl
@[simp] theorem writeK_endAddr (i : Fin 8) (v : Opmask) : (s.writeK i v).endAddr = s.endAddr := rfl

@[simp] theorem advance_cfg (len : Nat) : (s.advance len).cfg = s.cfg := rfl
@[simp] theorem advance_pc (len : Nat) : (s.advance len).pc = s.pc + BitVec.ofNat 64 len := rfl
@[simp] theorem advance_x (len : Nat) : (s.advance len).x = s.x := rfl
@[simp] theorem advance_mm (len : Nat) : (s.advance len).mm = s.mm := rfl
@[simp] theorem advance_zmm (len : Nat) : (s.advance len).zmm = s.zmm := rfl
@[simp] theorem advance_k (len : Nat) : (s.advance len).k = s.k := rfl
@[simp] theorem advance_eflags (len : Nat) : (s.advance len).eflags = s.eflags := rfl
@[simp] theorem advance_mxcsr (len : Nat) : (s.advance len).mxcsr = s.mxcsr := rfl
@[simp] theorem advance_cr0 (len : Nat) : (s.advance len).cr0 = s.cr0 := rfl
@[simp] theorem advance_cr4 (len : Nat) : (s.advance len).cr4 = s.cr4 := rfl
@[simp] theorem advance_xcr0 (len : Nat) : (s.advance len).xcr0 = s.xcr0 := rfl
@[simp] theorem advance_cpl (len : Nat) : (s.advance len).cpl = s.cpl := rfl
@[simp] theorem advance_x87Top (len : Nat) : (s.advance len).x87Top = s.x87Top := rfl
@[simp] theorem advance_x87Tags (len : Nat) : (s.advance len).x87Tags = s.x87Tags := rfl
@[simp] theorem advance_x87Upper (len : Nat) : (s.advance len).x87Upper = s.x87Upper := rfl
@[simp] theorem advance_mem (len : Nat) : (s.advance len).mem = s.mem := rfl
@[simp] theorem advance_accessible (len : Nat) : (s.advance len).accessible = s.accessible := rfl
@[simp] theorem advance_devices (len : Nat) : (s.advance len).devices = s.devices := rfl
@[simp] theorem advance_otherWriters (len : Nat) : (s.advance len).otherWriters = s.otherWriters := rfl
@[simp] theorem advance_reads (len : Nat) : (s.advance len).reads = s.reads := rfl
@[simp] theorem advance_endAddr (len : Nat) : (s.advance len).endAddr = s.endAddr := rfl

@[simp] theorem countRead_cfg (acc : Option Access) : (s.countRead acc).cfg = s.cfg := by cases acc <;> rfl
@[simp] theorem countRead_pc (acc : Option Access) : (s.countRead acc).pc = s.pc := by cases acc <;> rfl
@[simp] theorem countRead_x (acc : Option Access) : (s.countRead acc).x = s.x := by cases acc <;> rfl
@[simp] theorem countRead_mm (acc : Option Access) : (s.countRead acc).mm = s.mm := by cases acc <;> rfl
@[simp] theorem countRead_zmm (acc : Option Access) : (s.countRead acc).zmm = s.zmm := by cases acc <;> rfl
@[simp] theorem countRead_k (acc : Option Access) : (s.countRead acc).k = s.k := by cases acc <;> rfl
@[simp] theorem countRead_eflags (acc : Option Access) : (s.countRead acc).eflags = s.eflags := by cases acc <;> rfl
@[simp] theorem countRead_mxcsr (acc : Option Access) : (s.countRead acc).mxcsr = s.mxcsr := by cases acc <;> rfl
@[simp] theorem countRead_cr0 (acc : Option Access) : (s.countRead acc).cr0 = s.cr0 := by cases acc <;> rfl
@[simp] theorem countRead_cr4 (acc : Option Access) : (s.countRead acc).cr4 = s.cr4 := by cases acc <;> rfl
@[simp] theorem countRead_xcr0 (acc : Option Access) : (s.countRead acc).xcr0 = s.xcr0 := by cases acc <;> rfl
@[simp] theorem countRead_cpl (acc : Option Access) : (s.countRead acc).cpl = s.cpl := by cases acc <;> rfl
@[simp] theorem countRead_x87Top (acc : Option Access) : (s.countRead acc).x87Top = s.x87Top := by cases acc <;> rfl
@[simp] theorem countRead_x87Tags (acc : Option Access) : (s.countRead acc).x87Tags = s.x87Tags := by cases acc <;> rfl
@[simp] theorem countRead_x87Upper (acc : Option Access) : (s.countRead acc).x87Upper = s.x87Upper := by cases acc <;> rfl
@[simp] theorem countRead_mem (acc : Option Access) : (s.countRead acc).mem = s.mem := by cases acc <;> rfl
@[simp] theorem countRead_accessible (acc : Option Access) : (s.countRead acc).accessible = s.accessible := by cases acc <;> rfl
@[simp] theorem countRead_devices (acc : Option Access) : (s.countRead acc).devices = s.devices := by cases acc <;> rfl
@[simp] theorem countRead_otherWriters (acc : Option Access) : (s.countRead acc).otherWriters = s.otherWriters := by cases acc <;> rfl
@[simp] theorem countRead_endAddr (acc : Option Access) : (s.countRead acc).endAddr = s.endAddr := by cases acc <;> rfl
@[simp] theorem countRead_none : s.countRead none = s := rfl
@[simp] theorem countRead_some_reads (a : Access) : (s.countRead (some a)).reads = s.reads + 1 := rfl

end Updates

/-! What a register reads after a write. -/

theorem readMm_writeMm_same (s : State) (i : Fin 8) (v : Mm) : (s.writeMm i v).readMm i = v := by
  simp [State.readMm]

theorem readMm_writeMm_other (s : State) (i j : Fin 8) (v : Mm) (h : j ≠ i) :
    (s.writeMm i v).readMm j = s.readMm j := by
  have : (i : Nat) ≠ j := fun e => h (Fin.ext e.symm)
  simp [State.readMm, Vector.getElem_set_ne, this]

theorem readK_writeK_same (s : State) (i : Fin 8) (v : Opmask) : (s.writeK i v).readK i = v := by
  simp [State.readK]

theorem readK_writeK_other (s : State) (i j : Fin 8) (v : Opmask) (h : j ≠ i) :
    (s.writeK i v).readK j = s.readK j := by
  have : (i : Nat) ≠ j := fun e => h (Fin.ext e.symm)
  simp [State.readK, Vector.getElem_set_ne, this]

theorem readVec_writeZmm_same (w : Nat) (s : State) (i : Fin 32) (v : Zmm) :
    (s.writeZmm i v).readVec w i = v.setWidth w := by
  simp [State.readVec]

theorem readVec_writeZmm_other (w : Nat) (s : State) (i j : Fin 32) (v : Zmm) (h : j ≠ i) :
    (s.writeZmm i v).readVec w j = s.readVec w j := by
  have : (i : Nat) ≠ j := fun e => h (Fin.ext e.symm)
  simp [State.readVec, Vector.getElem_set_ne, this]

/-- A legacy write: bits 127:0 are the value written. -/
theorem readVec_writeXmm_low (s : State) (i : Fin 32) (v : BitVec 128) : (s.writeXmm i v).readVec 128 i = v := by
  simp only [State.writeXmm, readVec_writeZmm_same]
  apply BitVec.eq_of_getLsbD_eq
  intro j hj
  simp [hj]

/-- A legacy write: bits 511:128 are the old ones. -/
theorem writeXmm_bit_above (s : State) (i : Fin 32) (v : BitVec 128) (j : Nat) (hj : 128 ≤ j) :
    ((s.writeXmm i v).readVec 512 i).getLsbD j = (s.readVec 512 i).getLsbD j := by
  have hv : v.getLsbD j = false := BitVec.getLsbD_of_ge v j hj
  have e : 128 + (j - 128) = j := by omega
  by_cases h : j < 512
  · have : ¬ j < 128 := by omega
    simp only [State.writeXmm, State.readVec]
    simp [h, hv, this, e]
  · rw [BitVec.getLsbD_of_ge _ j (by omega), BitVec.getLsbD_of_ge _ j (by omega)]

/-- A VEX write: the value written, zero above it. -/
theorem readVec_writeVec_whole {w : Nat} (s : State) (i : Fin 32) (v : BitVec w) :
    (s.writeVec i v).readVec 512 i = v.setWidth 512 := by
  simp only [State.writeVec, readVec_writeZmm_same, BitVec.setWidth_eq]

end Sys2Proof.Machine
end

