-- ==== Sys2Proof/Laws/Ops.lean ====
section
/-! SUPPORT. What each shared operation can answer, said once. -/

namespace Sys2Proof.Machine

theorem andThen_eq_next {α β : Type} {o : Host.Outcome α Fault Refusal} {f : α → Host.Outcome β Fault Refusal} {b : β} :
    andThen o f = .next b ↔ ∃ a, o = .next a ∧ f a = .next b := by
  cases o <;> simp [andThen]

theorem andThen_eq_fault {α β : Type} {o : Host.Outcome α Fault Refusal} {f : α → Host.Outcome β Fault Refusal}
    {e : Fault} : andThen o f = .fault e ↔ o = .fault e ∨ ∃ a, o = .next a ∧ f a = .fault e := by
  cases o <;> simp [andThen]

theorem andThen_eq_refused {α β : Type} {o : Host.Outcome α Fault Refusal} {f : α → Host.Outcome β Fault Refusal}
    {r : Refusal} : andThen o f = .refused r ↔ o = .refused r ∨ ∃ a, o = .next a ∧ f a = .refused r := by
  cases o <;> simp [andThen]

@[simp] theorem andThen_next {α β : Type} (a : α) (f : α → Host.Outcome β Fault Refusal) :
    andThen (.next a) f = f a := rfl

@[simp] theorem andThen_fault {α β : Type} (e : Fault) (f : α → Host.Outcome β Fault Refusal) :
    andThen (.fault e) f = .fault e := rfl

@[simp] theorem andThen_refused {α β : Type} (r : Refusal) (f : α → Host.Outcome β Fault Refusal) :
    andThen (.refused r) f = .refused r := rfl

/-- All of a range is canonical exactly when each address is. -/
theorem canonicalRange_eq_true (la : LaBits) (a n : Nat) :
    canonicalRange la a n = true ↔ ∀ j, j < n → canonical la (a + j) = true := by
  induction n generalizing a with
  | zero => simp [canonicalRange]
  | succ n ih =>
    simp only [canonicalRange, Bool.and_eq_true, ih]
    constructor
    · rintro ⟨h0, h⟩ j hj
      cases j with
      | zero => exact h0
      | succ j => rw [show a + (j + 1) = a + 1 + j by omega]; exact h j (by omega)
    · intro h
      refine ⟨h 0 (by omega), fun j hj => ?_⟩
      rw [show a + 1 + j = a + (j + 1) by omega]
      exact h (j + 1) (by omega)

/-- No byte of a range is in device memory exactly when each is not (R48). -/
theorem touchesDevice_eq_false (s : State) (a n : Nat) :
    s.touchesDevice a n = false ↔ ∀ j, j < n → s.onDevice (a + j) = false := by
  induction n generalizing a with
  | zero => simp [State.touchesDevice]
  | succ n ih =>
    simp only [State.touchesDevice, Bool.or_eq_false_iff, ih]
    constructor
    · rintro ⟨h0, h⟩ j hj
      cases j with
      | zero => exact h0
      | succ j => rw [show a + (j + 1) = a + 1 + j by omega]; exact h j (by omega)
    · intro h
      refine ⟨h 0 (by omega), fun j hj => ?_⟩
      rw [show a + 1 + j = a + (j + 1) by omega]
      exact h (j + 1) (by omega)

/-- The first byte that is not accessible, given that it is one and that every byte before it is accessible (R46). -/
theorem firstInaccessible_eq_some (s : State) (a n j : Nat) (hj : j < n)
    (hb : ∀ i, i < j → s.byteAccessible (a + i) = true) (hn : s.byteAccessible (a + j) = false) :
    s.firstInaccessible a n = some (a + j) := by
  induction n generalizing a j with
  | zero => omega
  | succ n ih =>
    cases j with
    | zero => simp_all [State.firstInaccessible]
    | succ j =>
      simp only [State.firstInaccessible, show s.byteAccessible a = true from hb 0 (by omega), if_true]
      rw [show a + (j + 1) = a + 1 + j by omega] at hn ⊢
      refine ih (a + 1) j (by omega) (fun i hi => ?_) hn
      rw [show a + 1 + i = a + (i + 1) by omega]
      exact hb (i + 1) (by omega)

/-- Accessible bytes are not in device memory (R48). -/
theorem touchesDevice_of_accessible (s : State) (a n : Nat) (h : s.firstInaccessible a n = none) :
    s.touchesDevice a n = false := by
  induction n generalizing a with
  | zero => rfl
  | succ n ih =>
    simp only [State.firstInaccessible] at h
    split at h
    · rename_i hb
      have hd : s.onDevice a = false := by
        simp only [State.byteAccessible, Bool.and_eq_true, Bool.not_eq_true'] at hb
        exact hb.2
      simp [State.touchesDevice, hd, ih _ h]
    · cases h

/-- The admission of a read, read off: when it goes on. -/
theorem admitRead_eq_next (c : FormClass) (a : Access) (s : State) (u : Unit) :
    admitRead c a s = .next u ↔
      ¬ (c.alignRule = .fault16 ∧ a.addr.toNat % 16 ≠ 0)
        ∧ ¬ (s.cfg.mode64 = true ∧ canonicalRange s.cfg.laBits a.addr.toNat a.bytes = false)
        ∧ s.firstInaccessible a.addr.toNat a.bytes = none
        ∧ ¬ (c.alignRule = .check ∧ s.acChecking = true ∧ a.misaligned = true) := by
  have hdev := touchesDevice_of_accessible s a.addr.toNat a.bytes
  simp only [admitRead, raise]
  generalize s.touchesDevice a.addr.toNat a.bytes = d at hdev ⊢
  generalize s.firstInaccessible a.addr.toNat a.bytes = fi at hdev ⊢
  by_cases h1 : c.alignRule = .fault16 ∧ a.addr.toNat % 16 ≠ 0
  · simp [h1]
  · by_cases h2 : s.cfg.mode64 = true ∧ canonicalRange s.cfg.laBits a.addr.toNat a.bytes = false
    · rw [if_neg h1, if_pos h2]
      split <;> simp [h2]
    · rw [if_neg h1, if_neg h2]
      cases fi with
      | some la => cases d <;> simp
      | none =>
        simp only [hdev rfl, h1, h2, not_false_eq_true, true_and]
        by_cases h3 : c.alignRule = .check ∧ s.acChecking = true ∧ a.misaligned = true <;> simp [h3]

/-- Neither R21 nor R44 refuses. -/
theorem formRefusal_eq_none (c : FormClass) (len : Nat) (acc : Option Access) (s : State) :
    formRefusal c len acc s = none ↔ s.pc.toNat + len < 2 ^ s.addrBits ∧ alignmentRefused c acc s = false := by
  unfold formRefusal
  by_cases h : 2 ^ s.addrBits ≤ s.pc.toNat + len
  · simp [h]
  · simp [h, Nat.lt_of_not_le h]

/-- R21 refuses exactly at the top of the address space. -/
theorem formRefusal_eq_pcWrap (c : FormClass) (len : Nat) (acc : Option Access) (s : State) :
    formRefusal c len acc s = some .pcWrap ↔ 2 ^ s.addrBits ≤ s.pc.toNat + len := by
  unfold formRefusal
  split
  · simp_all
  · split <;> simp_all

/-- R44's refusal is answered below the top of the address space only. -/
theorem formRefusal_eq_alignment (c : FormClass) (len : Nat) (acc : Option Access) (s : State) :
    formRefusal c len acc s = some .alignmentCheckUnmodelled ↔
      s.pc.toNat + len < 2 ^ s.addrBits ∧ alignmentRefused c acc s = true := by
  unfold formRefusal
  by_cases h : 2 ^ s.addrBits ≤ s.pc.toNat + len
  · simp [h]
  · simp [h, Nat.lt_of_not_le h]

/-- All the checks before a form pass exactly when the form is ready. -/
theorem checkForm_eq_next (c : FormClass) (len : Nat) (acc : Option Access) (s : State) (u : Unit) :
    checkForm c len acc s = .next u ↔ formReady c len acc s = true := by
  have hacc : (alignmentRefused c acc s = false ∧ admitOperand c acc s = .next u)
      ↔ acc.all (fun a => a.readable c s) = true := by
    cases acc with
    | none => simp [alignmentRefused, admitOperand]
    | some a =>
      simp only [alignmentRefused, admitOperand, admitRead_eq_next, Option.any_some, Option.all_some, Access.readable]
      generalize s.firstInaccessible a.addr.toNat a.bytes = fi
      generalize canonicalRange s.cfg.laBits a.addr.toNat a.bytes = cr
      generalize a.misaligned = mis
      generalize s.acChecking = ac
      generalize s.cfg.mode64 = m
      by_cases h16 : a.addr.toNat % 16 = 0 <;>
        cases fi <;> cases cr <;> cases mis <;> cases ac <;> cases m <;> cases c.alignRule <;> simp [h16]
  have hr : formReady c len acc s = true ↔
      s.pc.toNat + len < 2 ^ s.addrBits ∧ formAllowed c s = true ∧ acc.all (fun a => a.readable c s) = true := by
    simp [formReady, pcFits, and_assoc]
  rw [hr, ← hacc]
  unfold checkForm formRefusal formAllowed
  by_cases h1 : s.pc.toNat + len < 2 ^ s.addrBits
  · rw [if_neg (show ¬ 2 ^ s.addrBits ≤ s.pc.toNat + len by omega)]
    simp only [h1, true_and]
    cases alignmentRefused c acc s
    · simp only [Bool.false_eq_true, if_false, true_and]
      cases hs : (c.supported s.cfg.feat && c.enabled s)
      · simp [raise]
      · cases ht : s.ts
        · by_cases hc : c = .mmx
          · cases hx : s.cfg.x87Pending <;> simp [hc, raise]
          · simp [hc]
        · simp [raise]
    · simp
  · rw [if_pos (show 2 ^ s.addrBits ≤ s.pc.toNat + len by omega)]
    simp [h1]

/-- A form that writes the state `u` after its checks: when it completes, and in what state. -/
theorem checked_eq_next (c : FormClass) (len : Nat) (acc : Option Access) (s u t : State) :
    andThen (checkForm c len acc s) (fun _ => .next u) = .next t ↔ formReady c len acc s = true ∧ t = u := by
  rw [andThen_eq_next]
  constructor
  · rintro ⟨a, ha, ht⟩
    cases ht
    exact ⟨(checkForm_eq_next c len acc s a).1 ha, rfl⟩
  · rintro ⟨hr, rfl⟩
    exact ⟨(), (checkForm_eq_next c len acc s ()).2 hr, rfl⟩

/-- What an MMX form does when it completes: when, and the whole next state. -/
theorem runMmx_eq_next (f : Mm → Mm → Mm) (p : LegacyPrefix) (dst : Fin 8) (src : Rm 8) (s t : State) :
    runMmx f p dst src s = .next t ↔
      formReady .mmx (mmLen p src) (mmAccess p src s) s = true
        ∧ t = (((s.countRead (mmAccess p src s)).enterMmx).writeMm dst (f (s.readMm dst) (mmSource p src s))).advance
            (mmLen p src) :=
  checked_eq_next _ _ _ _ _ _

/-- What a legacy SSE2 form does when it completes. -/
theorem runSse_eq_next (f : BitVec 128 → BitVec 128 → BitVec 128) (p : LegacyPrefix) (dst : Fin 16) (src : Rm 16)
    (s t : State) :
    runSse f p dst src s = .next t ↔
      formReady .sse2 (xmmLen p src) (xmmAccess p src s) s = true
        ∧ t = ((s.countRead (xmmAccess p src s)).writeXmm (vreg dst)
            (f (s.readVec 128 (vreg dst)) (xmmSource p src s))).advance (xmmLen p src) :=
  checked_eq_next _ _ _ _ _ _

/-- What a VEX form does when it completes. -/
theorem runVex_eq_next (vl : VecLen) (f : BitVec vl.bits → BitVec vl.bits → BitVec vl.bits) (p : VexPrefix)
    (dst src1 : Fin 16) (src2 : Rm 16) (s t : State) :
    runVex vl f p dst src1 src2 s = .next t ↔
      formReady (vexClass vl) (vexLen p src2) (vexAccess vl p src2 s) s = true
        ∧ t = ((s.countRead (vexAccess vl p src2 s)).writeVec (vreg dst)
            (f (s.readVec vl.bits (vreg src1)) (vexSource vl p src2 s))).advance (vexLen p src2) :=
  checked_eq_next _ _ _ _ _ _

/-- What EVEX VPCMPEQD does when it completes. -/
theorem runEvexD_eq_next (vl : VecLen) (addr32 : Bool) (dst : Fin 8) (mask : Option (Fin 8)) (src1 : Fin 32)
    (src2 : RmBcst) (s t : State) :
    runEvexD vl addr32 dst mask src1 src2 s = .next t ↔
      formReady (.evexD vl) (evexLen addr32 src2.len) (evexDAccess vl addr32 src2 s) s = true
        ∧ t = ((s.countRead (evexDAccess vl addr32 src2 s)).writeK dst
            (eqMask 32 (vl.bits / 32) (s.readVec vl.bits src1) (evexDSource vl addr32 src2 s)
              (s.writemask mask))).advance (evexLen addr32 src2.len) :=
  checked_eq_next _ _ _ _ _ _

/-- What EVEX VPCMPEQB or VPCMPEQW does when it completes. -/
theorem runEvexBW_eq_next (w : Nat) (vl : VecLen) (addr32 : Bool) (dst : Fin 8) (mask : Option (Fin 8))
    (src1 : Fin 32) (src2 : Rm 32) (s t : State) :
    runEvexBW w vl addr32 dst mask src1 src2 s = .next t ↔
      formReady (.evexBW vl) (evexLen addr32 src2.len) (evexAccess vl addr32 src2 s) s = true
        ∧ t = ((s.countRead (evexAccess vl addr32 src2 s)).writeK dst
            (eqMask w (vl.bits / w) (s.readVec vl.bits src1) (evexSource vl addr32 src2 s)
              (s.writemask mask))).advance (evexLen addr32 src2.len) :=
  checked_eq_next _ _ _ _ _ _

/-- Every instruction makes the checks of its class, for its length and its access, before anything else (R107). -/
theorem exec_eq_checkForm (i : Instr) (s : State) :
    ∃ u, exec i s = andThen (checkForm i.formClass i.len (i.access s) s) fun _ => .next u := by
  cases i <;> exact ⟨_, rfl⟩

/-- Bytes that raise #UD by themselves never go on. -/
theorem udVerdict_ne_next {α : Type} (s : State) (i : Instr) (extra : Nat) (a : α) : s.udVerdict i extra ≠ .next a := by
  unfold State.udVerdict raise
  split <;> simp

@[simp] theorem advance_zero (s : State) : s.advance 0 = s := by
  simp [State.advance, State.nextPc]

/-- With no byte before the form, the refusals are those its own execution asks. -/
theorem refusalAt_zero (s : State) (i : Instr) : s.refusalAt i 0 = formRefusal i.formClass i.len (i.access s) s := by
  simp [State.refusalAt]

/-- What bytes meet of R21's and R44's refusals, read off their decoding. -/
theorem completion_eq_some (s : State) (bytes : List Byte) (r : Option Refusal) :
    s.completion bytes = some r ↔
      (∃ i rest, decode s.cfg.mode64 bytes = .instr i rest ∧ s.refusalAt i 0 = r)
        ∨ ∃ i extra, decode s.cfg.mode64 bytes = .ud i extra ∧ s.refusalAt i extra = r := by
  unfold State.completion
  cases decode s.cfg.mode64 bytes <;> simp

/-- The window can become what one completion of it is. -/
theorem canMeet_of_completion (s : State) (tail : List Byte) (r : Option Refusal)
    (h : s.completion (s.window ++ tail) = some r) : s.CanMeet r := by
  rcases (completion_eq_some s _ r).1 h with ⟨i, rest, hd, hr⟩ | ⟨i, extra, hd, hr⟩
  · exact ⟨tail, i, 0, .inl ⟨rfl, rest, hd⟩, hr⟩
  · exact ⟨tail, i, extra, .inr hd, hr⟩

/-- No refusal is decided exactly where one of the listed completions is not refused. -/
theorem missingRefusal_eq_none (s : State) (next : Missing) :
    s.missingRefusal next = none ↔
      ∃ tail ∈ completionTails s.acChecking next, s.completion (s.window ++ tail) = some none := by
  unfold State.missingRefusal
  simp only [← List.any_eq_true (p := fun tail => s.completion (s.window ++ tail) == some none), ← beq_iff_eq (b := some none)]
  split
  · simp_all
  · split <;> simp_all

/-- What a fetch answers when it answers an instruction. -/
theorem fetch_eq_next (s : State) (i : Instr) :
    s.fetch = .next i ↔ ∃ rest, decode s.cfg.mode64 s.window = .instr i rest := by
  unfold State.fetch
  cases decode s.cfg.mode64 s.window with
  | instr j r => simp
  | ud j extra => simp [udVerdict_ne_next]
  | refuse r => simp
  | more next =>
    simp only [raise]
    split <;> simp

end Sys2Proof.Machine
end

