-- ==== Sys2Proof/Laws/PerInstr.lean ====
section
/-! SUPPORT. Statements made per instruction: the encoder writes as many bytes as the instruction's length says (R78). -/

namespace Sys2Proof.Laws

theorem disp_bytes_length (d : Disp) : d.bytes.length = d.len := by cases d <;> rfl

theorem memOp_bytes_length (reg : Nat) (m : MemOp) : (m.bytes reg).length = 1 + m.len := by
  cases m <;> simp [MemOp.bytes, MemOp.len, d32Bytes, disp_bytes_length] <;> omega

theorem rm_bytes_length (reg : Nat) {n : Nat} (r : Rm n) : (r.bytes reg).length = 1 + r.len := by
  cases r <;> simp [Rm.bytes, Rm.len, memOp_bytes_length]

theorem addrPrefix_length (a : Bool) : (addrPrefix a).length = a.toNat := by cases a <;> rfl

theorem encodeLegacy_length (row66 : Bool) (e : Elem) (p : LegacyPrefix) (dst : Nat) {n : Nat} (src : Rm n) :
    (encodeLegacy row66 e p dst src).length = p.addr32.toNat + p.rex.toNat + 3 + row66.toNat + src.len := by
  cases row66 <;> cases h : p.rex <;> simp [encodeLegacy, legacyBody, rm_bytes_length, addrPrefix_length, h] <;> omega

theorem encodeVex_length (e : Elem) (l : Nat) (p : VexPrefix) (dst src1 : Fin 16) (src2 : Rm 16) :
    (encodeVex e l p dst src1 src2).length = vexLen p src2 := by
  cases h : p.three <;> simp [encodeVex, vexBody, vexLen, rm_bytes_length, addrPrefix_length, h] <;> omega

theorem encodeEvex_length (e : Elem) (ll b : Nat) (a : Bool) (dst : Fin 8) (mask : Option (Fin 8)) (src1 : Fin 32)
    (src2 : Rm 32) : (encodeEvex e ll b a dst mask src1 src2).length = evexLen a src2.len := by
  simp [encodeEvex, evexBody, evexLen, rm_bytes_length, addrPrefix_length]
  omega

theorem split_len (r : RmBcst) : r.split.1.len = r.len := by cases r <;> rfl

/-- The encoder writes `len` bytes. -/
def EncodeLength.Statement (i : Instr) : Prop := (encode i).length = i.len

theorem EncodeLength.pcmpeqbMm (p : LegacyPrefix) (dst : Fin 8) (src : Rm 8) :
    EncodeLength.Statement (.pcmpeqbMm p dst src) := by
  simp [EncodeLength.Statement, encode, Instr.len, encodeLegacy_length, mmLen]

theorem EncodeLength.pcmpeqbXmm (p : LegacyPrefix) (dst : Fin 16) (src : Rm 16) :
    EncodeLength.Statement (.pcmpeqbXmm p dst src) := by
  simp [EncodeLength.Statement, encode, Instr.len, encodeLegacy_length, xmmLen]

theorem EncodeLength.pcmpeqwMm (p : LegacyPrefix) (dst : Fin 8) (src : Rm 8) :
    EncodeLength.Statement (.pcmpeqwMm p dst src) := by
  simp [EncodeLength.Statement, encode, Instr.len, encodeLegacy_length, mmLen]

theorem EncodeLength.pcmpeqwXmm (p : LegacyPrefix) (dst : Fin 16) (src : Rm 16) :
    EncodeLength.Statement (.pcmpeqwXmm p dst src) := by
  simp [EncodeLength.Statement, encode, Instr.len, encodeLegacy_length, xmmLen]

theorem EncodeLength.pcmpeqdMm (p : LegacyPrefix) (dst : Fin 8) (src : Rm 8) :
    EncodeLength.Statement (.pcmpeqdMm p dst src) := by
  simp [EncodeLength.Statement, encode, Instr.len, encodeLegacy_length, mmLen]

theorem EncodeLength.pcmpeqdXmm (p : LegacyPrefix) (dst : Fin 16) (src : Rm 16) :
    EncodeLength.Statement (.pcmpeqdXmm p dst src) := by
  simp [EncodeLength.Statement, encode, Instr.len, encodeLegacy_length, xmmLen]

theorem EncodeLength.vpcmpeqbXmm (p : VexPrefix) (dst src1 : Fin 16) (src2 : Rm 16) :
    EncodeLength.Statement (.vpcmpeqbXmm p dst src1 src2) := by
  simp only [EncodeLength.Statement, encode, Instr.len, encodeVex_length]

theorem EncodeLength.vpcmpeqwXmm (p : VexPrefix) (dst src1 : Fin 16) (src2 : Rm 16) :
    EncodeLength.Statement (.vpcmpeqwXmm p dst src1 src2) := by
  simp only [EncodeLength.Statement, encode, Instr.len, encodeVex_length]

theorem EncodeLength.vpcmpeqdXmm (p : VexPrefix) (dst src1 : Fin 16) (src2 : Rm 16) :
    EncodeLength.Statement (.vpcmpeqdXmm p dst src1 src2) := by
  simp only [EncodeLength.Statement, encode, Instr.len, encodeVex_length]

theorem EncodeLength.vpcmpeqbYmm (p : VexPrefix) (dst src1 : Fin 16) (src2 : Rm 16) :
    EncodeLength.Statement (.vpcmpeqbYmm p dst src1 src2) := by
  simp only [EncodeLength.Statement, encode, Instr.len, encodeVex_length]

theorem EncodeLength.vpcmpeqwYmm (p : VexPrefix) (dst src1 : Fin 16) (src2 : Rm 16) :
    EncodeLength.Statement (.vpcmpeqwYmm p dst src1 src2) := by
  simp only [EncodeLength.Statement, encode, Instr.len, encodeVex_length]

theorem EncodeLength.vpcmpeqdYmm (p : VexPrefix) (dst src1 : Fin 16) (src2 : Rm 16) :
    EncodeLength.Statement (.vpcmpeqdYmm p dst src1 src2) := by
  simp only [EncodeLength.Statement, encode, Instr.len, encodeVex_length]

theorem EncodeLength.vpcmpeqdK128 (a : Bool) (dst : Fin 8) (mask : Option (Fin 8)) (src1 : Fin 32) (src2 : RmBcst) :
    EncodeLength.Statement (.vpcmpeqdK128 a dst mask src1 src2) := by
  simp only [EncodeLength.Statement, encode, Instr.len, encodeEvex_length, split_len]

theorem EncodeLength.vpcmpeqdK256 (a : Bool) (dst : Fin 8) (mask : Option (Fin 8)) (src1 : Fin 32) (src2 : RmBcst) :
    EncodeLength.Statement (.vpcmpeqdK256 a dst mask src1 src2) := by
  simp only [EncodeLength.Statement, encode, Instr.len, encodeEvex_length, split_len]

theorem EncodeLength.vpcmpeqdK512 (a : Bool) (dst : Fin 8) (mask : Option (Fin 8)) (src1 : Fin 32) (src2 : RmBcst) :
    EncodeLength.Statement (.vpcmpeqdK512 a dst mask src1 src2) := by
  simp only [EncodeLength.Statement, encode, Instr.len, encodeEvex_length, split_len]

theorem EncodeLength.vpcmpeqbK128 (a : Bool) (dst : Fin 8) (mask : Option (Fin 8)) (src1 : Fin 32) (src2 : Rm 32) :
    EncodeLength.Statement (.vpcmpeqbK128 a dst mask src1 src2) := by
  simp only [EncodeLength.Statement, encode, Instr.len, encodeEvex_length]

theorem EncodeLength.vpcmpeqbK256 (a : Bool) (dst : Fin 8) (mask : Option (Fin 8)) (src1 : Fin 32) (src2 : Rm 32) :
    EncodeLength.Statement (.vpcmpeqbK256 a dst mask src1 src2) := by
  simp only [EncodeLength.Statement, encode, Instr.len, encodeEvex_length]

theorem EncodeLength.vpcmpeqbK512 (a : Bool) (dst : Fin 8) (mask : Option (Fin 8)) (src1 : Fin 32) (src2 : Rm 32) :
    EncodeLength.Statement (.vpcmpeqbK512 a dst mask src1 src2) := by
  simp only [EncodeLength.Statement, encode, Instr.len, encodeEvex_length]

theorem EncodeLength.vpcmpeqwK128 (a : Bool) (dst : Fin 8) (mask : Option (Fin 8)) (src1 : Fin 32) (src2 : Rm 32) :
    EncodeLength.Statement (.vpcmpeqwK128 a dst mask src1 src2) := by
  simp only [EncodeLength.Statement, encode, Instr.len, encodeEvex_length]

theorem EncodeLength.vpcmpeqwK256 (a : Bool) (dst : Fin 8) (mask : Option (Fin 8)) (src1 : Fin 32) (src2 : Rm 32) :
    EncodeLength.Statement (.vpcmpeqwK256 a dst mask src1 src2) := by
  simp only [EncodeLength.Statement, encode, Instr.len, encodeEvex_length]

theorem EncodeLength.vpcmpeqwK512 (a : Bool) (dst : Fin 8) (mask : Option (Fin 8)) (src1 : Fin 32) (src2 : Rm 32) :
    EncodeLength.Statement (.vpcmpeqwK512 a dst mask src1 src2) := by
  simp only [EncodeLength.Statement, encode, Instr.len, encodeEvex_length]

end Sys2Proof.Laws
end

