-- ==== Sys2Proof/Tests/Slice0.lean ====
section
/-! SUPPORT. Tests: well-formedness checks, decoding of words written out from 30_encoding.md and 95_test_vectors.md, one or
two steps of every instruction against the values of 95_test_vectors.md, its exception table, and for every statement
with hypotheses a concrete state and operands that meet them. -/

namespace Sys2Proof.Tests

open Sys2Proof.Machine

set_option Elab.async false

/-! ### Helpers -/

/-- A small 64-bit launch at 0x1000. -/
def start : State := { State.reset with pc := 0x1000 }

/-- The same in 32-bit mode. -/
def start32 : State := { start with cfg := { Config.usual with mode64 := false } }

def setX (i : Fin 16) (v : Addr) (s : State) : State := { s with x := s.x.set i v }
def setMm (i : Fin 8) (v : Mm) (s : State) : State := { s with mm := s.mm.set i v }
def setZ (i : Fin 32) (v : Nat) (s : State) : State := { s with zmm := s.zmm.set i (BitVec.ofNat 512 v) }
def setK (i : Fin 8) (v : Opmask) (s : State) : State := { s with k := s.k.set i v }
def setMem (a : Nat) (bs : List Byte) (s : State) : State := { s with mem := s.mem.writeBytes a bs }
def setFeat (f : Features) (s : State) : State := { s with cfg := { s.cfg with feat := f } }
/-- Only the first `n` bytes from 0 are accessible. -/
def below (n : Nat) (s : State) : State := { s with accessible := [{ base := 0, size := n }] }
/-- Device memory in the page from 0x3000. -/
def device (s : State) : State := { s with devices := [{ base := 0x3000, size := 0x1000 }] }
/-- Alignment checking on (R26). -/
def checked (s : State) : State := { s with cr0 := s.cr0 ||| 0x40000, eflags := s.eflags ||| 0x40000, cpl := 3 }

/-- What `f` shows of the state after one step with these bytes at pc, if the step goes on. -/
def after {α : Type} (bytes : List Byte) (s : State) (f : State → α) : Option α :=
  match step (s.placeAtPc bytes) with
  | .next t => some (f t)
  | _ => none

/-- The exception of an outcome, if it is one. -/
def raised {α : Type} : Host.Outcome α Fault Refusal → Option Fault
  | .fault f => some f
  | _ => none

theorem fault_of_raised {α : Type} {o : Host.Outcome α Fault Refusal} {f : Fault} (h : raised o = some f) :
    o = .fault f := by
  cases o <;> simp_all [raised]

/-- The exception that one step with these bytes at pc raises. -/
def faultOf (bytes : List Byte) (s : State) : Option Fault := raised (step (s.placeAtPc bytes))

/-- The refusal of one step with these bytes at pc. -/
def refusalOf (bytes : List Byte) (s : State) : Option Refusal :=
  match step (s.placeAtPc bytes) with
  | .refused r => some r
  | _ => none

def goesOn {α : Type} : Host.Outcome α Fault Refusal → Bool
  | .next _ => true
  | _ => false

theorem next_of_goesOn {α : Type} {o : Host.Outcome α Fault Refusal} (h : goesOn o = true) : ∃ t, o = .next t := by
  cases o <;> simp_all [goesOn]

/-! ### Well-formedness: a term that each check refuses -/

theorem test_wf_register_8_needs_rex : (Instr.pcmpeqbXmm ⟨false, false⟩ 8 (.reg 1)).wellFormed true = false := by decide
theorem test_wf_rm_register_9_needs_rex : (Instr.pcmpeqbXmm ⟨false, false⟩ 1 (.reg 9)).wellFormed true = false := by decide
theorem test_wf_no_rex_outside_mode64 : (Instr.pcmpeqbXmm ⟨false, true⟩ 1 (.reg 1)).wellFormed false = false := by decide
theorem test_wf_no_addr32_outside_mode64 :
    (Instr.pcmpeqbMm ⟨true, false⟩ 1 (.reg 1)).wellFormed false = false
      ∧ (Instr.vpcmpeqbXmm ⟨true, false⟩ 1 1 (.reg 1)).wellFormed false = false
      ∧ (Instr.vpcmpeqbK512 true 1 none 1 (.reg 1)).wellFormed false = false := by decide
theorem test_wf_base_4_needs_sib : (Instr.pcmpeqbMm ⟨false, false⟩ 0 (.mem (.base 4 .none))).wellFormed true = false := by
  decide
theorem test_wf_base_12_needs_sib : (Instr.pcmpeqbMm ⟨false, true⟩ 0 (.mem (.base 12 .none))).wellFormed true = false := by
  decide
theorem test_wf_base_5_needs_displacement :
    (Instr.pcmpeqbMm ⟨false, false⟩ 0 (.mem (.base 5 .none))).wellFormed true = false := by decide
theorem test_wf_sib_base_13_needs_displacement :
    (Instr.pcmpeqbMm ⟨false, true⟩ 0 (.mem (.sib 13 0 0 .none))).wellFormed true = false := by decide
theorem test_wf_base_8_needs_rex : (Instr.pcmpeqbMm ⟨false, false⟩ 0 (.mem (.base 8 .none))).wellFormed true = false := by
  decide
theorem test_wf_index_9_needs_rex :
    (Instr.pcmpeqbMm ⟨false, false⟩ 0 (.mem (.sib 0 9 0 .none))).wellFormed true = false
      ∧ (Instr.pcmpeqbMm ⟨false, false⟩ 0 (.mem (.sib 9 0 0 .none))).wellFormed true = false
      ∧ (Instr.pcmpeqbMm ⟨false, false⟩ 0 (.mem (.sibNoBase 9 0 0))).wellFormed true = false := by decide
theorem test_wf_two_byte_vex_extends_no_rm :
    (Instr.vpcmpeqdXmm ⟨false, false⟩ 1 2 (.reg 9)).wellFormed true = false := by decide
theorem test_wf_vex_registers_outside_mode64 :
    (Instr.vpcmpeqdYmm ⟨false, true⟩ 8 2 (.reg 1)).wellFormed false = false
      ∧ (Instr.vpcmpeqdYmm ⟨false, true⟩ 1 8 (.reg 1)).wellFormed false = false
      ∧ (Instr.vpcmpeqdYmm ⟨false, true⟩ 1 2 (.reg 8)).wellFormed false = false := by decide
theorem test_wf_k0_is_no_writemask : (Instr.vpcmpeqdK128 false 1 (some 0) 2 (.reg 3)).wellFormed true = false := by decide
theorem test_wf_evex_registers_outside_mode64 :
    (Instr.vpcmpeqdK128 false 1 none 8 (.reg 3)).wellFormed false = false
      ∧ (Instr.vpcmpeqdK128 false 1 none 2 (.reg 8)).wellFormed false = false
      ∧ (Instr.vpcmpeqdK128 false 1 none 2 (.bcst (.base 8 .none))).wellFormed false = false
      ∧ (Instr.vpcmpeqwK256 false 1 none 2 (.mem (.base 8 .none))).wellFormed false = false := by decide

/-! ### Decoding: words of 95_test_vectors.md section 2, at least one for every constructor -/

theorem test_decode_pcmpeqb_mm :
    decode true [0x0F, 0x74, 0xC1] = .instr (.pcmpeqbMm ⟨false, false⟩ 0 (.reg 1)) []
      ∧ decode true [0x0F, 0x74, 0x18] = .instr (.pcmpeqbMm ⟨false, false⟩ 3 (.mem (.base 0 .none))) []
      ∧ decode true [0x41, 0x0F, 0x74, 0x00] = .instr (.pcmpeqbMm ⟨false, true⟩ 0 (.mem (.base 8 .none))) [] := by
  decide +kernel
theorem test_decode_pcmpeqw_mm :
    decode true [0x0F, 0x75, 0xD7] = .instr (.pcmpeqwMm ⟨false, false⟩ 2 (.reg 7)) [] := by decide +kernel
theorem test_decode_pcmpeqd_mm :
    decode true [0x0F, 0x76, 0x6B, 0x08] = .instr (.pcmpeqdMm ⟨false, false⟩ 5 (.mem (.base 3 (.d8 8)))) []
      ∧ decode false [0x0F, 0x76, 0x54, 0xB3, 0x04]
        = .instr (.pcmpeqdMm ⟨false, false⟩ 2 (.mem (.sib 3 6 2 (.d8 4)))) [] := by decide +kernel
theorem test_decode_pcmpeqb_xmm :
    decode true [0x66, 0x44, 0x0F, 0x74, 0xC1] = .instr (.pcmpeqbXmm ⟨false, true⟩ 8 (.reg 1)) []
      ∧ decode true [0x66, 0x41, 0x0F, 0x74, 0xC9] = .instr (.pcmpeqbXmm ⟨false, true⟩ 1 (.reg 9)) []
      ∧ decode true [0x66, 0x41, 0x0F, 0x74, 0x04, 0x24]
        = .instr (.pcmpeqbXmm ⟨false, true⟩ 0 (.mem (.sib 12 4 0 .none))) []
      ∧ decode true [0x67, 0x66, 0x0F, 0x74, 0x00] = .instr (.pcmpeqbXmm ⟨true, false⟩ 0 (.mem (.base 0 .none))) [] := by
  decide +kernel
theorem test_decode_pcmpeqw_xmm :
    decode true [0x66, 0x0F, 0x75, 0x16] = .instr (.pcmpeqwXmm ⟨false, false⟩ 2 (.mem (.base 6 .none))) []
      ∧ decode false [0x66, 0x0F, 0x75, 0x0D, 0x00, 0x10, 0x00, 0x00]
        = .instr (.pcmpeqwXmm ⟨false, false⟩ 1 (.mem (.dispOnly 0x1000))) [] := by decide +kernel
theorem test_decode_pcmpeqd_xmm :
    decode true [0x66, 0x45, 0x0F, 0x76, 0xBC, 0x8C, 0x00, 0x01, 0x00, 0x00]
        = .instr (.pcmpeqdXmm ⟨false, true⟩ 15 (.mem (.sib 12 1 2 (.d32 0x100)))) []
      ∧ decode false [0x66, 0x0F, 0x76, 0x7C, 0x75, 0xFC]
        = .instr (.pcmpeqdXmm ⟨false, false⟩ 7 (.mem (.sib 5 6 1 (.d8 0xFC)))) [] := by decide +kernel
theorem test_decode_vpcmpeqb_xmm :
    decode true [0xC5, 0xE9, 0x74, 0xCB] = .instr (.vpcmpeqbXmm ⟨false, false⟩ 1 2 (.reg 3)) []
      ∧ decode true [0xC4, 0xE1, 0xE9, 0x74, 0xCB] = .instr (.vpcmpeqbXmm ⟨false, true⟩ 1 2 (.reg 3)) []
      ∧ decode true [0x67, 0xC5, 0xE9, 0x74, 0x08] = .instr (.vpcmpeqbXmm ⟨true, false⟩ 1 2 (.mem (.base 0 .none))) [] := by
  decide +kernel
theorem test_decode_vpcmpeqw_xmm :
    decode true [0xC5, 0xD1, 0x75, 0xED] = .instr (.vpcmpeqwXmm ⟨false, false⟩ 5 5 (.reg 5)) [] := by decide +kernel
theorem test_decode_vpcmpeqd_xmm :
    decode true [0xC4, 0x41, 0x29, 0x76, 0xCB] = .instr (.vpcmpeqdXmm ⟨false, true⟩ 9 10 (.reg 11)) [] := by decide +kernel
theorem test_decode_vpcmpeqb_ymm :
    decode true [0xC5, 0xED, 0x74, 0xCB] = .instr (.vpcmpeqbYmm ⟨false, false⟩ 1 2 (.reg 3)) [] := by decide +kernel
theorem test_decode_vpcmpeqw_ymm :
    decode true [0xC5, 0x6D, 0x75, 0x47, 0x20]
      = .instr (.vpcmpeqwYmm ⟨false, false⟩ 8 2 (.mem (.base 7 (.d8 0x20)))) [] := by decide +kernel
theorem test_decode_vpcmpeqd_ymm :
    decode true [0xC4, 0xC1, 0x05, 0x76, 0xC9] = .instr (.vpcmpeqdYmm ⟨false, true⟩ 1 15 (.reg 9)) []
      ∧ decode false [0xC5, 0xCD, 0x76, 0x7C, 0x24, 0x08]
        = .instr (.vpcmpeqdYmm ⟨false, false⟩ 7 6 (.mem (.sib 4 4 0 (.d8 8)))) [] := by decide +kernel
theorem test_decode_vpcmpeqd_k128 :
    decode true [0x62, 0x91, 0x75, 0x07, 0x76, 0xEE] = .instr (.vpcmpeqdK128 false 5 (some 7) 17 (.reg 30)) []
      ∧ decode true [0x62, 0xF1, 0x6D, 0x18, 0x76, 0x48, 0x01]
        = .instr (.vpcmpeqdK128 false 1 none 2 (.bcst (.base 0 (.d8 1)))) [] := by decide +kernel
theorem test_decode_vpcmpeqd_k256 :
    decode true [0x62, 0xF1, 0x6D, 0x2A, 0x76, 0x48, 0x02]
      = .instr (.vpcmpeqdK256 false 1 (some 2) 2 (.mem (.base 0 (.d8 2)))) [] := by decide +kernel
theorem test_decode_vpcmpeqd_k512 :
    decode true [0x62, 0xF1, 0x6D, 0x4A, 0x76, 0xD3] = .instr (.vpcmpeqdK512 false 2 (some 2) 2 (.reg 3)) []
      ∧ decode false [0x62, 0xF1, 0x6D, 0x5A, 0x76, 0x48, 0x10]
        = .instr (.vpcmpeqdK512 false 1 (some 2) 2 (.bcst (.base 0 (.d8 0x10)))) [] := by decide +kernel
theorem test_decode_vpcmpeqb_k128 :
    decode true [0x62, 0xF1, 0x6D, 0x0A, 0x74, 0x5B, 0x01]
      = .instr (.vpcmpeqbK128 false 3 (some 2) 2 (.mem (.base 3 (.d8 1)))) [] := by decide +kernel
theorem test_decode_vpcmpeqb_k256 :
    decode true [0x62, 0xF1, 0x5D, 0x20, 0x74, 0x5B, 0x01]
      = .instr (.vpcmpeqbK256 false 3 none 20 (.mem (.base 3 (.d8 1)))) [] := by decide +kernel
theorem test_decode_vpcmpeqb_k512 :
    decode true [0x62, 0xF1, 0x6D, 0x4A, 0x74, 0x88, 0x41, 0x00, 0x00, 0x00]
        = .instr (.vpcmpeqbK512 false 1 (some 2) 2 (.mem (.base 0 (.d32 0x41)))) []
      ∧ decode true [0x62, 0xF1, 0xED, 0x4A, 0x74, 0xCB] = .instr (.vpcmpeqbK512 false 1 (some 2) 2 (.reg 3)) [] := by
  decide +kernel
theorem test_decode_vpcmpeqw_k128 :
    decode true [0x62, 0xF1, 0x6D, 0x0A, 0x75, 0xCB] = .instr (.vpcmpeqwK128 false 1 (some 2) 2 (.reg 3)) [] := by
  decide +kernel
theorem test_decode_vpcmpeqw_k256 :
    decode true [0x62, 0xF1, 0x6D, 0x29, 0x75, 0xCB] = .instr (.vpcmpeqwK256 false 1 (some 1) 2 (.reg 3)) [] := by
  decide +kernel
theorem test_decode_vpcmpeqw_k512 :
    decode true [0x62, 0xF1, 0x05, 0x41, 0x75, 0xF8] = .instr (.vpcmpeqwK512 false 7 (some 1) 31 (.reg 0)) []
      ∧ decode false [0x62, 0xF1, 0x45, 0x48, 0x75, 0xC8] = .instr (.vpcmpeqwK512 false 1 none 7 (.reg 0)) [] := by
  decide +kernel

/-- Words as the opcode table numbers them, first byte highest (R82), zeros after them. -/
theorem test_table_word :
    decodeTableWord 24 0x0F74C1 = some (.pcmpeqbMm ⟨false, false⟩ 0 (.reg 1))
      ∧ decodeTableWord 24 0xC5E974 = some (.vpcmpeqbXmm ⟨false, false⟩ 0 2 (.mem (.base 0 .none))) := by decide +kernel

/-- 95_test_vectors.md 2.3: bytes that raise #UD by themselves, and the form they are apart from what raises it. -/
theorem test_bytes_that_are_ud :
    decode true [0xF0, 0x0F, 0x74, 0xC1] = .ud (.pcmpeqbMm ⟨false, false⟩ 0 (.reg 1)) 1
      ∧ decode true [0x66, 0xC5, 0xE9, 0x74, 0xCB] = .ud (.vpcmpeqbXmm ⟨false, false⟩ 1 2 (.reg 3)) 1
      ∧ decode true [0x48, 0xC5, 0xE9, 0x74, 0xCB] = .ud (.vpcmpeqbXmm ⟨false, false⟩ 1 2 (.reg 3)) 1
      ∧ decode true [0x62, 0xF1, 0xED, 0x4A, 0x76, 0xCB] = .ud (.vpcmpeqdK512 false 1 (some 2) 2 (.reg 3)) 0
      ∧ decode true [0x62, 0xF1, 0x6D, 0x58, 0x74, 0x08] = .ud (.vpcmpeqbK512 false 1 none 2 (.mem (.base 0 .none))) 0
      ∧ decode true [0x62, 0xF1, 0x6D, 0x58, 0x75, 0xCB] = .ud (.vpcmpeqwK512 false 1 none 2 (.reg 3)) 0 := by
  decide +kernel

/-- 95_test_vectors.md 2.3: refused bytes, by name. -/
theorem test_bytes_that_are_refused :
    decode true [0xF3, 0x0F, 0x74, 0xC1] = .refuse .noSuchRow ∧ decode true [0xF2, 0x0F, 0x76, 0xC1] = .refuse .noSuchRow
      ∧ decode true [0x66, 0x48, 0x0F, 0x74, 0xC1] = .refuse .rexW
      ∧ decode true [0x44, 0x0F, 0x74, 0xC1] = .refuse .rexOnMmx ∧ decode true [0x41, 0x0F, 0x74, 0xC1] = .refuse .rexOnMmx
      ∧ decode true [0x64, 0x66, 0x0F, 0x74, 0x00] = .refuse .segmentOverride
      ∧ decode true [0x66, 0x66, 0x0F, 0x74, 0x00] = .refuse .redundantPrefix
      ∧ decode true [0x62, 0xF1, 0x6D, 0xCA, 0x76, 0xCB] = .refuse .evexZOnMaskDest
      ∧ decode true [0x62, 0xF1, 0x6D, 0x58, 0x76, 0xCB] = .refuse .evexBWithRegister
      ∧ decode true [0x62, 0xF1, 0x6D, 0x6A, 0x76, 0xCB] = .refuse .evexLlReserved
      ∧ decode true [0x62, 0x71, 0x6D, 0x4A, 0x76, 0xCB] = .refuse .evexROnMaskDest
      ∧ decode true [0x62, 0xE1, 0x6D, 0x4A, 0x76, 0xCB] = .refuse .evexROnMaskDest
      ∧ decode true [0x62, 0xF5, 0x6D, 0x4A, 0x76, 0xCB] = .refuse .evexReservedBits
      ∧ decode true [0x62, 0xF1, 0x69, 0x4A, 0x76, 0xCB] = .refuse .evexReservedBits
      ∧ decode true [0x0F, 0x77] = .refuse .notInScope ∧ decode true [0x90] = .refuse .notInScope
      ∧ decode false [0xC5, 0xA9, 0x74, 0xCB] = .refuse .notInScope
      ∧ decode false [0xC4, 0xC1, 0x69, 0x74, 0xCB] = .refuse .extBitOutsideMode64
      ∧ decode false [0x67, 0x0F, 0x74, 0xC1] = .refuse .addr16 := by decide +kernel

/-- R81, R156 item 0: bytes that end before the instruction and already decide a refusal (segment override, repeated prefix,
EVEX P0, pp of VEX, more than 15 bytes) ... -/
theorem test_partial_bytes_refused :
    decode true [0x64] = .refuse .segmentOverride ∧ decode true [0x66, 0x66] = .refuse .redundantPrefix
      ∧ decode true [0x62, 0xF5] = .refuse .evexReservedBits ∧ decode true [0xC5, 0xE8] = .refuse .notInScope
      ∧ decode true [0xC4, 0xE2] = .refuse .notInScope ∧ decode true [0xF2, 0x0F] = .refuse .noSuchRow
      ∧ decode true [0x67, 0x66, 0xF2, 0xF3, 0xF0, 0x40, 0x62, 0xF1, 0x6D, 0x48, 0x76, 0x05] = .refuse .tooLong := by
  decide +kernel
/-- ... and bytes that do not, with what is missing. -/
theorem test_partial_bytes_open :
    decode true [] = .more .opcode ∧ decode true [0x62, 0xF1] = .more .opcode ∧ decode true [0xC5, 0xE9] = .more .opcode
      ∧ decode true [0x66, 0x0F] = .more .opcode ∧ decode true [0xC5, 0xE9, 0x74] = .more .modrm
      ∧ decode true [0x0F, 0x74, 0x44] = .more .sib ∧ decode true [0x0F, 0x74, 0x44, 0x24] = .more .displacement
      ∧ decode true [0x67, 0x66, 0xF2, 0xF3, 0xF0, 0x62, 0xF1, 0x6D, 0x48, 0x76, 0x05] = .more .displacement := by
  decide +kernel

/-- notes/assumptions/31.md: R72's name before R76's for a stored R' of 0 outside 64-bit mode. -/
theorem test_refusal_order_of_r_prime :
    decode false [0x62, 0xE1, 0x6D, 0x4A, 0x76, 0xCB] = .refuse .evexROnMaskDest := by decide +kernel

/-! ### One step of each instruction: values of 95_test_vectors.md section 3 -/

def mmA : Mm := 0x0102030405060708
def mmB : Mm := 0x0102FF0405FF0708

theorem test_pcmpeqb_mm :
    after [0x0F, 0x74, 0xC1] (setMm 0 mmA (setMm 1 mmB start)) (fun t => (t.readMm 0, t.readMm 1, t.pc))
      = some (0xFFFF00FFFF00FFFF, mmB, 0x1003) := by decide +kernel
/-- Section 3.1: the operand in memory, at an address that is not aligned. -/
theorem test_pcmpeqb_mm_memory :
    after [0x0F, 0x74, 0x00] (setMem 0x3001 [8, 7, 0xFF, 5, 4, 0xFF, 2, 1] (setX 0 0x3001 (setMm 0 mmA start)))
      (fun t => t.readMm 0) = some 0xFFFF00FFFF00FFFF := by decide +kernel
theorem test_pcmpeqw_mm :
    after [0x0F, 0x75, 0xC1] (setMm 0 mmA (setMm 1 mmB start)) (fun t => t.readMm 0) = some 0xFFFF00000000FFFF := by
  decide +kernel
theorem test_pcmpeqd_mm :
    after [0x0F, 0x76, 0xC1] (setMm 0 0x00FF00FF12345678 (setMm 1 0xFF00000012345678 start)) (fun t => t.readMm 0)
      = some 0x00000000FFFFFFFF := by decide +kernel
/-- R27: the x87 side effects. -/
theorem test_mmx_x87 :
    after [0x0F, 0x74, 0xC1] { start with x87Top := 5 }
      (fun t => (t.x87Top, t.x87Tags.toList, t.x87Upper.toList))
      = some (0, List.replicate 8 0, 0xFFFF :: List.replicate 7 0) := by decide +kernel

def xa : Nat := 0x00112233445566778899AABBCCDDEEFF
def xb : Nat := 0x00112233FF5566778899AABBCCDD00FF
def byteR : Nat := 0xFFFFFFFF00FFFFFFFFFFFFFFFFFF00FF
def wordR : Nat := 0xFFFFFFFF0000FFFFFFFFFFFFFFFF0000
def dwordR : Nat := 0xFFFFFFFF00000000FFFFFFFF00000000
/-- The bytes of `xb`. -/
def xbBytes : List Byte :=
  [0xFF, 0x00, 0xDD, 0xCC, 0xBB, 0xAA, 0x99, 0x88, 0x77, 0x66, 0x55, 0xFF, 0x33, 0x22, 0x11, 0x00]

theorem test_pcmpeqb_xmm_keeps_upper_bits :
    after [0x66, 0x0F, 0x74, 0xC1] (setZ 0 (5 * 2 ^ 128 + xa) (setZ 1 xb start)) (fun t => t.readVec 512 0)
      = some (BitVec.ofNat 512 (5 * 2 ^ 128 + byteR)) := by decide +kernel
theorem test_pcmpeqb_xmm_memory :
    after [0x66, 0x0F, 0x74, 0x00] (setMem 0x3000 xbBytes (setX 0 0x3000 (setZ 0 xa start))) (fun t => t.readVec 512 0)
      = some (BitVec.ofNat 512 byteR) := by decide +kernel
theorem test_pcmpeqw_xmm :
    after [0x66, 0x0F, 0x75, 0xC1] (setZ 0 xa (setZ 1 xb start)) (fun t => t.readVec 128 0)
      = some (BitVec.ofNat 128 wordR) := by decide +kernel
theorem test_pcmpeqd_xmm :
    after [0x66, 0x0F, 0x76, 0xC1] (setZ 0 0x3F800000800000007FC0000000000000 (setZ 1 0x3F800001800000007FC0000080000000 start))
      (fun t => t.readVec 128 0) = some 0x00000000FFFFFFFFFFFFFFFF00000000 := by decide +kernel
theorem test_vpcmpeqb_xmm_zeroes_upper_bits :
    after [0xC5, 0xE9, 0x74, 0xCB] (setZ 1 (2 ^ 512 - 1) (setZ 2 xa (setZ 3 xb start)))
      (fun t => (t.readVec 512 1, t.pc)) = some (BitVec.ofNat 512 byteR, 0x1004) := by decide +kernel
theorem test_vpcmpeqb_xmm_unaligned_memory :
    after [0xC5, 0xF9, 0x74, 0x00] (setMem 0x3008 xbBytes (setX 0 0x3008 (setZ 0 xa start))) (fun t => t.readVec 512 0)
      = some (BitVec.ofNat 512 byteR) := by decide +kernel
theorem test_vpcmpeqw_xmm :
    after [0xC5, 0xE9, 0x75, 0xCB] (setZ 2 xa (setZ 3 xb start)) (fun t => t.readVec 512 1)
      = some (BitVec.ofNat 512 wordR) := by decide +kernel
theorem test_vpcmpeqd_xmm :
    after [0xC5, 0xE9, 0x76, 0xCB] (setZ 2 xa (setZ 3 xb start)) (fun t => t.readVec 512 1)
      = some (BitVec.ofNat 512 dwordR) := by decide +kernel

/-- Section 3.3: YMM2 and YMM3, and all ones in ZMM1. -/
def ymmStart : State :=
  setZ 1 (2 ^ 512 - 1) (setZ 2 0x0F0E0D0C0B0A0908070605040302010000112233445566778899AABBCCDDEEFF
    (setZ 3 0x0F0E0D0C0B0A09080706FF040302010000112233FF5566778899AABBCCDD00FF start))

theorem test_vpcmpeqb_ymm :
    after [0xC5, 0xED, 0x74, 0xCB] ymmStart (fun t => t.readVec 512 1)
      = some 0xFFFFFFFFFFFFFFFFFFFF00FFFFFFFFFFFFFFFFFF00FFFFFFFFFFFFFFFFFF00FF := by decide +kernel
theorem test_vpcmpeqw_ymm :
    after [0xC5, 0xED, 0x75, 0xCB] ymmStart (fun t => t.readVec 512 1)
      = some 0xFFFFFFFFFFFFFFFFFFFF0000FFFFFFFFFFFFFFFF0000FFFFFFFFFFFFFFFF0000 := by decide +kernel
theorem test_vpcmpeqd_ymm :
    after [0xC5, 0xED, 0x76, 0xCB] ymmStart (fun t => t.readVec 512 1)
      = some 0xFFFFFFFFFFFFFFFF00000000FFFFFFFFFFFFFFFF00000000FFFFFFFF00000000 := by decide +kernel

/-- The number whose lane j of `w` bits is `f j`, for j below `n`. -/
def lanes (w : Nat) (f : Nat → Nat) : Nat → Nat
  | 0 => 0
  | n + 1 => lanes w f n + f n * 2 ^ (w * n)

/-- Section 3.4: ZMM2 and ZMM3, a writemask in K2 and ones in K1. -/
def dwordStart : State :=
  setZ 2 (lanes 32 id 16) (setZ 3 (lanes 32 (fun j => if j % 2 = 0 then j else 0xFFFFFFFF) 16)
    (setK 2 0xFFFFFFFFFFFFFF04 (setK 1 0xFFFFFFFFFFFFFFFF start)))

theorem test_vpcmpeqd_k128 :
    after [0x62, 0xF1, 0x6D, 0x0A, 0x76, 0xCB] dwordStart (fun t => (t.readK 1, t.pc)) = some (0x4, 0x1006)
      ∧ after [0x62, 0xF1, 0x6D, 0x08, 0x76, 0xCB] dwordStart (fun t => t.readK 1) = some 0x5 := by decide +kernel
theorem test_vpcmpeqd_k256 :
    after [0x62, 0xF1, 0x6D, 0x2A, 0x76, 0xCB] dwordStart (fun t => t.readK 1) = some 0x04
      ∧ after [0x62, 0xF1, 0x6D, 0x28, 0x76, 0xCB] dwordStart (fun t => t.readK 1) = some 0x55 := by decide +kernel
theorem test_vpcmpeqd_k512 :
    after [0x62, 0xF1, 0x6D, 0x4A, 0x76, 0xCB] dwordStart (fun t => t.readK 1) = some 0x5504
      ∧ after [0x62, 0xF1, 0x6D, 0x4A, 0x76, 0xD3] (setK 2 0xFF dwordStart) (fun t => t.readK 2) = some 0x0055 := by
  decide +kernel
/-- Section 3.4: the doubleword 5 broadcast, 4 bytes read at the end of what is accessible. -/
theorem test_vpcmpeqd_broadcast :
    after [0x62, 0xF1, 0x6D, 0x5A, 0x76, 0x08]
      (below 0x3004 (setMem 0x3000 [5, 0, 0, 0] (setX 0 0x3000 (setK 2 0x00FF dwordStart)))) (fun t => t.readK 1)
      = some 0x0020 := by decide +kernel

/-- Section 3.5: ZMM2 and ZMM3. -/
def byteStart : State :=
  setZ 2 (lanes 8 id 64) (setZ 3 (lanes 8 (fun j => if j = 0 then 0xFF else if j = 63 then 0x3E else j) 64) start)

theorem test_vpcmpeqb_k128 :
    after [0x62, 0xF1, 0x6D, 0x0A, 0x74, 0xCB] (setK 2 0x00FF byteStart) (fun t => t.readK 1) = some 0x00FE := by
  decide +kernel
theorem test_vpcmpeqb_k256 :
    after [0x62, 0xF1, 0x6D, 0x2A, 0x74, 0xCB] (setK 2 0xFFFF0000 byteStart) (fun t => t.readK 1) = some 0xFFFF0000 := by
  decide +kernel
theorem test_vpcmpeqb_k512 :
    after [0x62, 0xF1, 0x6D, 0x48, 0x74, 0xCB] byteStart (fun t => t.readK 1) = some 0x7FFFFFFFFFFFFFFE
      ∧ after [0x62, 0xF1, 0x6D, 0x4A, 0x74, 0xCB] (setK 2 0x00000000FFFFFFFF byteStart) (fun t => t.readK 1)
        = some 0x00000000FFFFFFFE := by decide +kernel

/-- Section 3.6: ZMM2 and ZMM3. -/
def wordStart : State :=
  setZ 2 (lanes 16 (fun j => 0x1000 + j) 32)
    (setZ 3 (lanes 16 (fun j => if j % 3 = 0 then 0 else 0x1000 + j) 32) (setK 2 0x0F0F0F0F start))

theorem test_vpcmpeqw_k128 :
    after [0x62, 0xF1, 0x6D, 0x0A, 0x75, 0xCB] wordStart (fun t => t.readK 1) = some 0x06
      ∧ after [0x62, 0xF1, 0x6D, 0x08, 0x75, 0xCB] wordStart (fun t => t.readK 1) = some 0xB6 := by decide +kernel
theorem test_vpcmpeqw_k256 :
    after [0x62, 0xF1, 0x6D, 0x2A, 0x75, 0xCB] wordStart (fun t => t.readK 1) = some 0x0D06
      ∧ after [0x62, 0xF1, 0x6D, 0x28, 0x75, 0xCB] wordStart (fun t => t.readK 1) = some 0x6DB6 := by decide +kernel
theorem test_vpcmpeqw_k512 :
    after [0x62, 0xF1, 0x6D, 0x4A, 0x75, 0xCB] wordStart (fun t => t.readK 1) = some 0x060B0D06
      ∧ after [0x62, 0xF1, 0x6D, 0x48, 0x75, 0xCB] wordStart (fun t => t.readK 1) = some 0xB6DB6DB6 := by decide +kernel

/-- R104: with MAX_KL = 128 (D3), bits 127:64 of the destination are held and cleared, and those of the writemask not read. -/
theorem test_wide_opmask :
    after [0x62, 0xF1, 0x6D, 0x4A, 0x76, 0xCB]
      { setK 1 (2 ^ 128 - 1) (setK 2 (2 ^ 127 + 0xFF04) dwordStart) with cfg := { Config.usual with maxKl := 128 } }
      (fun t => (t.readK 1, t.readK 2)) = some (0x5504, 2 ^ 127 + 0xFF04) := by decide +kernel

/-! ### Addressing: 95_test_vectors.md sections 2 and 4 -/

/-- Program 1, step 1: [RIP + 0x18] at 0x1000 with length 8 is 0x1020. -/
theorem test_rip_relative :
    (Instr.pcmpeqbXmm ⟨false, false⟩ 0 (.mem (.dispOnly 0x18))).access start = some ⟨0x1020, 16, false⟩ := by decide +kernel
/-- Section 2.1: [r12 + rcx*4 + 0x100]; section 2.2: [ebp + esi*2 - 4], through SS, modulo 2^32. -/
theorem test_sib_addresses :
    (Instr.pcmpeqdXmm ⟨false, true⟩ 15 (.mem (.sib 12 1 2 (.d32 0x100)))).access (setX 12 0x5000 (setX 1 3 start))
        = some ⟨0x510C, 16, false⟩
      ∧ (Instr.pcmpeqdXmm ⟨false, false⟩ 7 (.mem (.sib 5 6 1 (.d8 0xFC)))).access start32
        = some ⟨0xFFFFFFFC, 16, true⟩ := by decide +kernel
/-- Program 3, step 3: [rbx + 0x10] from disp8 1 scaled by 16; a broadcast scales by 4. -/
theorem test_scaled_displacement :
    (Instr.vpcmpeqbK128 false 3 (some 2) 2 (.mem (.base 3 (.d8 1)))).access (setX 3 0x6000 start)
        = some ⟨0x6010, 16, false⟩
      ∧ (Instr.vpcmpeqdK512 false 1 (some 2) 2 (.bcst (.base 0 (.d8 0x10)))).access (setX 0 0x5000 start)
        = some ⟨0x5040, 4, false⟩ := by decide +kernel

/-! ### Exceptions: 95_test_vectors.md section 3.7 -/

theorem test_ud_of_features :
    faultOf [0x0F, 0x74, 0xC1] (setFeat { Config.usual.feat with mmx := false } start) = some (.ud 0x1000)
      ∧ faultOf [0xC5, 0xED, 0x74, 0xCB] (setFeat ⟨true, true, true, false, false, false, false⟩ start) = some (.ud 0x1000)
      ∧ faultOf [0x62, 0xF1, 0x6D, 0x0A, 0x76, 0xCB] (setFeat { Config.usual.feat with avx512vl := false } start)
        = some (.ud 0x1000)
      ∧ after [0x62, 0xF1, 0x6D, 0x4A, 0x76, 0xCB] (setFeat { Config.usual.feat with avx512vl := false } start)
        (fun t => t.pc) = some 0x1006
      ∧ faultOf [0x62, 0xF1, 0x6D, 0x4A, 0x74, 0xCB] (setFeat { Config.usual.feat with avx512bw := false } start)
        = some (.ud 0x1000) := by decide +kernel
theorem test_ud_of_enables :
    faultOf [0x0F, 0x74, 0xC1] { start with cr0 := 4 } = some (.ud 0x1000)
      ∧ faultOf [0x66, 0x0F, 0x74, 0xC1] { start with cr4 := 0x40000 } = some (.ud 0x1000)
      ∧ faultOf [0xC5, 0xE9, 0x74, 0xCB] { start with xcr0 := 3 } = some (.ud 0x1000)
      ∧ faultOf [0x62, 0xF1, 0x6D, 0x4A, 0x76, 0xCB] { start with xcr0 := 7 } = some (.ud 0x1000) := by decide +kernel
theorem test_nm_and_mf :
    faultOf [0x0F, 0x74, 0xC1] { start with cr0 := 8, cfg := { Config.usual with x87Pending := true } } = some (.nm 0x1000)
      ∧ faultOf [0x0F, 0x74, 0xC1] { start with cfg := { Config.usual with x87Pending := true } } = some (.mf 0x1000) := by
  decide +kernel
theorem test_operand_faults :
    faultOf [0x66, 0x0F, 0x74, 0x00] (below 0x2000 (setX 0 0x3008 start)) = some (.gp 0x1000)
      ∧ faultOf [0x66, 0x0F, 0x74, 0x00] (below 0x3004 (setX 0 0x3000 start)) = some (.pf 0x3004 0x1000)
      ∧ faultOf [0x66, 0x0F, 0x74, 0x00] (setX 0 0x0000800000000000 start) = some (.gp 0x1000)
      ∧ faultOf [0x66, 0x0F, 0x74, 0x04, 0x24] (setX 4 0x0000800000000000 start) = some (.ss 0x1000)
      ∧ faultOf [0x62, 0xF1, 0x6D, 0x4A, 0x76, 0x08] (below 0x2000 (setX 0 0x3000 start)) = some (.pf 0x3000 0x1000) := by
  decide +kernel
theorem test_alignment_check :
    faultOf [0x0F, 0x74, 0x00] (checked (setX 0 0x3001 start)) = some (.ac 0x1000)
      ∧ refusalOf [0xC5, 0xE9, 0x75, 0x08] (checked (setX 0 0x3001 start)) = some .alignmentCheckUnmodelled := by
  decide +kernel
/-- R44, R156 item 0 (notes/assumptions/14.md): with a displacement byte missing, R44's refusal comes first where the operand is
misaligned whatever that byte is: a disp8 scaled by 64 (with RAX at 1 and at 0 modulo 64), and a disp32 whose low byte is
there. -/
theorem test_alignment_before_missing_byte :
    refusalOf [0x62, 0xF1, 0x6D, 0x48, 0x74, 0x48] (below 0x1000 (checked (setX 0 0x3001 start)))
        = some .alignmentCheckUnmodelled
      ∧ faultOf [0x62, 0xF1, 0x6D, 0x48, 0x74, 0x48] (below 0x1000 (checked (setX 0 0x3000 start)))
        = some (.pf 0x1006 0x1000)
      ∧ faultOf [0xC5, 0xE9, 0x74, 0x48] (below 0x1000 (checked (setX 0 0x3001 start))) = some (.pf 0x1004 0x1000)
      ∧ refusalOf [0xC5, 0xE9, 0x74, 0x88, 0x01] (below 0x1000 (checked (setX 0 0x3000 start)))
        = some .alignmentCheckUnmodelled := by decide +kernel
/-- R163, U14: a load that crosses into device memory. -/
theorem test_device_operand :
    refusalOf [0x66, 0x0F, 0x74, 0x00] (setX 0 0x3000 (device start)) = some .deviceMemory
      ∧ after [0x66, 0x0F, 0x74, 0x00] (setX 0 0x2FF0 (device start)) (fun t => t.pc) = some 0x1004 := by decide +kernel
/-- notes/assumptions/13.md and 15.md: R21's and R44's refusals come before the #UD that the bytes raise by themselves. -/
theorem test_refusals_before_ud_of_the_bytes :
    refusalOf [0xF0, 0x0F, 0x74, 0xC1] { start32 with pc := 0xFFFFFFFC } = some .pcWrap
      ∧ faultOf [0xF0, 0x0F, 0x74, 0xC1] { start32 with pc := 0xFFFFFFFB } = some (.ud 0xFFFFFFFB)
      ∧ refusalOf [0x66, 0xC5, 0xE9, 0x75, 0x08] (checked (setX 0 0x3001 start)) = some .alignmentCheckUnmodelled
      ∧ faultOf [0x66, 0xC5, 0xE9, 0x75, 0x08] (checked (setX 0 0x3010 start)) = some (.ud 0x1000) := by decide +kernel

/-! ### Hypotheses met: one concrete case for every statement that has some -/

/-- DecodeOfEncodeIsTheInstruction: well-formed terms with registers and displacements at the ends of their ranges. -/
theorem witness_wellFormed :
    (Instr.pcmpeqwMm ⟨true, true⟩ 7 (.mem (.sib 15 15 3 (.d32 0x80000000)))).wellFormed true = true
      ∧ (Instr.pcmpeqwXmm ⟨true, true⟩ 15 (.reg 15)).wellFormed true = true
      ∧ (Instr.vpcmpeqwYmm ⟨true, true⟩ 15 15 (.mem (.sibNoBase 15 3 0x7FFFFFFF))).wellFormed true = true
      ∧ (Instr.vpcmpeqdK512 true 7 (some 7) 31 (.bcst (.base 15 (.d8 0x80)))).wellFormed true = true
      ∧ (Instr.vpcmpeqwK128 false 0 none 7 (.reg 7)).wellFormed false = true := by decide

/-- ExactlyTheSpellingsDecode: spellings other than the encoder's: 66 before 67, a stored X of 0 with a register (D19), REX bits
and W that name nothing. -/
theorem witness_spellings :
    (Instr.pcmpeqbXmm ⟨true, true⟩ 0 (.mem (.dispOnly 0x18))).SpelledBy true
        [0x66, 0x67, 0x43, 0x0F, 0x74, 0x05, 0x18, 0x00, 0x00, 0x00]
      ∧ decode true [0x66, 0x67, 0x43, 0x0F, 0x74, 0x05, 0x18, 0x00, 0x00, 0x00]
        = .instr (.pcmpeqbXmm ⟨true, true⟩ 0 (.mem (.dispOnly 0x18))) []
      ∧ (Instr.vpcmpeqbXmm ⟨false, true⟩ 1 2 (.reg 3)).SpelledBy true [0xC4, 0xA1, 0xE9, 0x74, 0xCB]
      ∧ decode true [0xC4, 0xA1, 0xE9, 0x74, 0xCB] = .instr (.vpcmpeqbXmm ⟨false, true⟩ 1 2 (.reg 3)) [] :=
  ⟨⟨[0x66, 0x67], [0x43, 0x0F, 0x74, 0x05, 0x18, 0x00, 0x00, 0x00], by decide, by decide +kernel, rfl⟩, by decide +kernel,
    ⟨[], [0xC4, 0xA1, 0xE9, 0x74, 0xCB], by decide, by decide +kernel, rfl⟩, by decide +kernel⟩

/-- DecodedInstructionIsWellFormed (with test_bytes_that_are_ud), DecodedInstructionHasItsLength: a decoded instruction with
bytes after it. -/
theorem witness_decoded :
    decode true [0xC5, 0xE9, 0x74, 0xCB, 0x90] = .instr (.vpcmpeqbXmm ⟨false, false⟩ 1 2 (.reg 3)) [0x90] := by
  decide +kernel

/-- WigBitIsIgnored: op 74 and op 75, and 0x67 before the prefix. -/
theorem witness_wig :
    decode true [0x62, 0xF1, 0x6D ^^^ 0x80, 0x4A, 0x74, 0xCB] = .instr (.vpcmpeqbK512 false 1 (some 2) 2 (.reg 3)) []
      ∧ decode true [0x67, 0x62, 0xF1, 0x6D ^^^ 0x80, 0x4A, 0x75, 0xCB]
        = .instr (.vpcmpeqwK512 true 1 (some 2) 2 (.reg 3)) [] := by
  decide +kernel

/-- TwoAndThreeByteVexAgree, with and without 0x67. -/
theorem witness_two_byte_vex :
    decode true (0x67 :: 0xC5 :: 0x6D :: [0x75, 0x47, 0x20])
        = .instr (.vpcmpeqwYmm ⟨true, false⟩ 8 2 (.mem (.base 7 (.d8 0x20)))) []
      ∧ decode false (0xC5 :: 0xE9 :: [0x74, 0xCB]) = .instr (.vpcmpeqbXmm ⟨false, false⟩ 1 2 (.reg 3)) [] := by
  decide +kernel

/-- ReservedEvexFieldsNeverDecode: one prefix for each field, otherwise that of a good instruction. -/
theorem witness_reserved_evex :
    (0xF9#8).getLsbD 3 = true ∧ (0xF5#8).getLsbD 2 = true ∧ (0x69#8).getLsbD 2 = false ∧ (0x71#8).getLsbD 7 = false
      ∧ (0xE1#8).getLsbD 4 = false ∧ (0xCA#8).getLsbD 7 = true
      ∧ ((0x6A#8).getLsbD 6 = true ∧ (0x6A#8).getLsbD 5 = true)
      ∧ ((0xED#8).getLsbD 7 = true ∧ (0x76#8) = 0x76) ∧ ((0x58#8).getLsbD 4 = true ∧ (0x75#8) = 0x75)
      ∧ ((0x58#8).getLsbD 4 = true ∧ (0x76#8) = 0x76
        ∧ ∃ modrm ∈ [(0xCB#8)].head?, modrm.getLsbD 7 = true ∧ modrm.getLsbD 6 = true) := by decide

/-- EachReservedEvexFieldHasItsVerdict: op 76 with a register and with memory, op 74 after 0x67, and a form outside 64-bit
mode. -/
theorem witness_evex_verdicts :
    decode true ([] ++ 0x62 :: 0xF1 :: 0x6D :: 0x4A :: 0x76 :: [0xCB])
        = .instr (.vpcmpeqdK512 false 1 (some 2) 2 (.reg 3)) []
      ∧ (∃ modrm ∈ [(0xCB#8)].head?, modrm.getLsbD 7 = true ∧ modrm.getLsbD 6 = true)
      ∧ decode true ([0x67] ++ 0x62 :: 0xF1 :: 0x6D :: 0x4A :: 0x74 :: [0x08])
        = .instr (.vpcmpeqbK512 true 1 (some 2) 2 (.mem (.base 0 .none))) []
      ∧ decode false ([] ++ 0x62 :: 0xF1 :: 0x45 :: 0x48 :: 0x75 :: [0xC8])
        = .instr (.vpcmpeqwK512 false 1 none 7 (.reg 0)) [] := by decide +kernel

/-- LockedLegacyFormIsUd, PrefixBeforeVexOrEvexIsUd and RefusedPrefixesAreNamed: one instruction of each class. -/
theorem witness_prefixed :
    ((Instr.pcmpeqbMm ⟨false, false⟩ 0 (.reg 1)).wellFormed true = true
        ∧ (Instr.pcmpeqbMm ⟨false, false⟩ 0 (.reg 1)).formClass = .mmx)
      ∧ ((Instr.pcmpeqbXmm ⟨false, false⟩ 0 (.reg 1)).wellFormed true = true
        ∧ (Instr.pcmpeqbXmm ⟨false, false⟩ 0 (.reg 1)).formClass = .sse2)
      ∧ ((Instr.vpcmpeqbYmm ⟨false, false⟩ 1 2 (.reg 3)).wellFormed true = true
        ∧ (Instr.vpcmpeqbYmm ⟨false, false⟩ 1 2 (.reg 3)).formClass ≠ .mmx
        ∧ (Instr.vpcmpeqbYmm ⟨false, false⟩ 1 2 (.reg 3)).formClass ≠ .sse2)
      ∧ (Instr.vpcmpeqbK512 false 1 none 2 (.reg 3)).wellFormed true = true
        ∧ (Instr.vpcmpeqbK512 false 1 none 2 (.reg 3)).formClass ≠ .mmx
        ∧ (Instr.vpcmpeqbK512 false 1 none 2 (.reg 3)).formClass ≠ .sse2 := by decide

/-- LockedLegacyFormIsUd, RefusedPrefixesAreNamed and PrefixBeforeVexOrEvexIsUd: the byte in question after another prefix, and a
body that raises #UD. -/
theorem witness_prefix_order :
    ([0x66#8, 0xF0].Perm (0xF0 :: (Instr.pcmpeqbXmm ⟨false, false⟩ 0 (.reg 1)).prefixes)
        ∧ [0x0F#8, 0x74, 0xC1] ∈ (Instr.pcmpeqbXmm ⟨false, false⟩ 0 (.reg 1)).bodies true)
      ∧ ([0x67#8, 0x64].Perm (0x64 :: (Instr.pcmpeqbMm ⟨true, false⟩ 0 (.mem (.base 0 .none))).prefixes)
        ∧ [0x0F#8, 0x74, 0x00] ∈ (Instr.pcmpeqbMm ⟨true, false⟩ 0 (.mem (.base 0 .none))).bodies true)
      ∧ ([0x66#8].Sublist [0x66, 0xF2, 0xF3, 0xF0]
        ∧ [0x67#8, 0x66].Perm ([0x66] ++ (Instr.vpcmpeqbXmm ⟨true, false⟩ 1 2 (.mem (.base 0 .none))).prefixes)
        ∧ [0xC5#8, 0xE9, 0x74, 0x08] ∈ (Instr.vpcmpeqbXmm ⟨true, false⟩ 1 2 (.mem (.base 0 .none))).bodies true)
      ∧ [0x62#8, 0xF1, 0xED, 0x4A, 0x76, 0xCB] ∈ (Instr.vpcmpeqdK512 false 1 (some 2) 2 (.reg 3)).udBodies true
      ∧ [0x62#8, 0xF1, 0x6D, 0x58, 0x74, 0x08] ∈ (Instr.vpcmpeqbK512 false 1 none 2 (.mem (.base 0 .none))).udBodies true := by
  decide +kernel
/-- The verdicts on those bytes. -/
theorem test_prefix_order :
    decode true [0x66, 0xF0, 0x0F, 0x74, 0xC1] = .ud (.pcmpeqbXmm ⟨false, false⟩ 0 (.reg 1)) 1
      ∧ decode true [0x67, 0x64, 0x0F, 0x74, 0x00] = .refuse .segmentOverride
      ∧ decode true [0x67, 0x66, 0xC5, 0xE9, 0x74, 0x08]
        = .ud (.vpcmpeqbXmm ⟨true, false⟩ 1 2 (.mem (.base 0 .none))) 1 := by decide +kernel

/-- PrefixBeforeVexOrEvexIsUd: the first and the last REX byte. RefusedPrefixesAreNamed: a form with 0x67, and one outside 64-bit
mode. RefusedRexBitsAreNamed: W = 1; W = 0 and R = 1; W = R = 0, B = 1 and a register operand. -/
theorem witness_prefix_clauses :
    (0x40#8) &&& 0xF0 = 0x40 ∧ (0x4F#8) &&& 0xF0 = 0x40
      ∧ (Instr.pcmpeqbXmm ⟨true, false⟩ 0 (.reg 1)).wellFormed true = true
      ∧ (Instr.pcmpeqbXmm ⟨true, false⟩ 0 (.reg 1)).addr32 = true
      ∧ (Instr.pcmpeqbMm ⟨false, false⟩ 0 (.reg 1)).wellFormed false = true
      ∧ (0x48#8).getLsbD 3 = true ∧ ((0x44#8).getLsbD 3 = false ∧ (0x44#8).getLsbD 2 = true)
      ∧ ((0x41#8).getLsbD 3 = false ∧ (0x41#8).getLsbD 2 = false ∧ (0x41#8).getLsbD 0 = true
        ∧ ∃ modrm ∈ [(0xC1#8)].head?, modrm.getLsbD 7 = true ∧ modrm.getLsbD 6 = true) := by decide

/-- DecodingVerdictsAreFinal and MissingBytesLeaveTheRefusalOpen: each verdict. -/
theorem witness_verdicts :
    decode true [0x0F, 0x74, 0xC1] = .instr (.pcmpeqbMm ⟨false, false⟩ 0 (.reg 1)) []
      ∧ decode true [0xF0, 0x0F, 0x74, 0xC1] = .ud (.pcmpeqbMm ⟨false, false⟩ 0 (.reg 1)) 1
      ∧ decode true [0x64] = .refuse .segmentOverride ∧ decode true [0x0F, 0x74] = .more .modrm := by decide +kernel

/-- StepRunsTheDecodedInstruction. -/
theorem witness_step :
    (start.placeAtPc [0x0F, 0x74, 0xC1]).ended = false
      ∧ decode true (start.placeAtPc [0x0F, 0x74, 0xC1]).window
        = .instr (.pcmpeqbMm ⟨false, false⟩ 0 (.reg 1)) (List.replicate 12 0)
      ∧ (Instr.pcmpeqbMm ⟨false, false⟩ 0 (.reg 1)).wellFormed true = true := by decide +kernel

/-- MissingInstructionByteFaults, MissingRefusalIsWhatEveryCompletionMeets: the third byte is not accessible. -/
theorem witness_missing_byte :
    ((below 0x1002 start).placeAtPc [0x0F, 0x74]).ended = false
      ∧ decode true ((below 0x1002 start).placeAtPc [0x0F, 0x74]).window = .more .modrm
      ∧ ((below 0x1002 start).placeAtPc [0x0F, 0x74]).missingRefusal .modrm = none
      ∧ ((below 0x1002 start).placeAtPc [0x0F, 0x74]).CanMeet none :=
  ⟨by decide +kernel, by decide +kernel, by decide +kernel, [0xC1], .pcmpeqbMm ⟨false, false⟩ 0 (.reg 1), 0,
    .inl ⟨rfl, [], by decide +kernel⟩, by decide +kernel⟩

/-- A launch near the top: two bytes are accessible, and a third ends at the top. -/
def topStart : State := { start with pc := 0xFFFFFFFFFFFFFFFD, accessible := [], mem := { cells := [] } }.placeAtPc [0x0F, 0x74]

/-- The same, refused by R21: every instruction has 3 bytes or more. -/
theorem witness_decided_wrap :
    topStart.ended = false ∧ decode true topStart.window = .more .modrm
      ∧ topStart.missingRefusal .modrm = some .pcWrap ∧ ¬ topStart.CanMeet none
      ∧ ¬ topStart.CanMeet (some .alignmentCheckUnmodelled) := by
  have hlen : ∀ i : Instr, 3 ≤ i.len := by
    intro i
    cases i <;> simp only [Instr.len, mmLen, xmmLen, vexLen, evexLen] <;> omega
  have htop : ∀ i extra, topStart.refusalAt i extra = some .pcWrap := fun i extra =>
    (formRefusal_eq_pcWrap _ _ _ _).2 (by
      have := hlen i
      have : 2 ^ topStart.addrBits = topStart.pc.toNat + 3 := by decide +kernel
      omega)
  refine ⟨by decide +kernel, by decide +kernel, by decide +kernel, ?_, ?_⟩ <;>
    · rintro ⟨tail, i, extra, -, h⟩
      rw [htop] at h
      cases h

/-- VPCMPEQB k1 (k2), zmm2, [rax + disp8 * 64] without its displacement byte, RAX = 0x3001, under alignment checking. -/
def misalignedStart : State :=
  (below 0x1000 (checked (setX 0 0x3001 start))).placeAtPc [0x62, 0xF1, 0x6D, 0x4A, 0x74, 0x48]

/-- The same, refused by R44: whatever the displacement byte, the operand is misaligned. -/
theorem witness_decided_misaligned :
    misalignedStart.ended = false ∧ decode true misalignedStart.window = .more .displacement
      ∧ misalignedStart.missingRefusal .displacement = some .alignmentCheckUnmodelled
      ∧ ¬ misalignedStart.CanMeet none ∧ misalignedStart.CanMeet (some .alignmentCheckUnmodelled) := by
  have hw : misalignedStart.window = [0x62, 0xF1, 0x6D, 0x4A, 0x74, 0x48] := by decide +kernel
  have hm : misalignedStart.cfg.mode64 = true := rfl
  have hall : ∀ b : Byte, misalignedStart.refusalAt (.vpcmpeqbK512 false 1 (some 2) 2 (.mem (.base 0 (.d8 b)))) 0
      = some .alignmentCheckUnmodelled := by decide +kernel
  have hdec : ∀ (b : Byte) (tail : List Byte), decode true ([0x62, 0xF1, 0x6D, 0x4A, 0x74, 0x48] ++ b :: tail)
      = .instr (.vpcmpeqbK512 false 1 (some 2) 2 (.mem (.base 0 (.d8 b)))) tail := fun _ _ => rfl
  refine ⟨by decide +kernel, by decide +kernel, by decide +kernel, ?_, [0], _, 0, .inl ⟨rfl, [], by rw [hw, hm]; exact hdec 0 []⟩, hall 0⟩
  rintro ⟨tail, i, extra, h, hr⟩
  rw [hw, hm] at h
  cases tail with
  | nil =>
    have hnil : decode true ([0x62, 0xF1, 0x6D, 0x4A, 0x74, 0x48] ++ []) = .more .displacement := by decide +kernel
    rw [hnil] at h
    simp at h
  | cons b tail =>
    rw [hdec] at h
    rcases h with ⟨rfl, rest, h⟩ | h
    · cases h
      rw [hall] at hr
      cases hr
    · cases h

/-- UndecodableBytesStop: refused bytes; bytes that raise #UD and end at the top of the address space, or one byte below it. -/
theorem witness_undecodable :
    ((start.placeAtPc [0x90]).ended = false ∧ decode true (start.placeAtPc [0x90]).window = .refuse .notInScope)
      ∧ (2 ^ start32.addrBits ≤ (0xFFFFFFFC#64).toNat + ((Instr.pcmpeqbMm ⟨false, false⟩ 0 (.reg 1)).len + 1)
        ∧ (({ start32 with pc := 0xFFFFFFFC } : State).placeAtPc [0xF0, 0x0F, 0x74, 0xC1]).ended = false
        ∧ decode false (({ start32 with pc := 0xFFFFFFFC } : State).placeAtPc [0xF0, 0x0F, 0x74, 0xC1]).window
          = .ud (.pcmpeqbMm ⟨false, false⟩ 0 (.reg 1)) 1)
      ∧ (0xFFFFFFFB#64).toNat + ((Instr.pcmpeqbMm ⟨false, false⟩ 0 (.reg 1)).len + 1) < 2 ^ start32.addrBits
      ∧ (({ start32 with pc := 0xFFFFFFFB } : State).placeAtPc [0xF0, 0x0F, 0x74, 0xC1]).ended = false
      ∧ decode false (({ start32 with pc := 0xFFFFFFFB } : State).placeAtPc [0xF0, 0x0F, 0x74, 0xC1]).window
          = .ud (.pcmpeqbMm ⟨false, false⟩ 0 (.reg 1)) 1
      ∧ alignmentRefused .mmx none start32 = false := by decide +kernel
/-- The same with a misaligned operand under alignment checking. -/
theorem witness_undecodable_misaligned :
    ((checked (setX 0 0x3001 start)).placeAtPc [0x66, 0xC5, 0xE9, 0x75, 0x08]).ended = false
      ∧ decode true ((checked (setX 0 0x3001 start)).placeAtPc [0x66, 0xC5, 0xE9, 0x75, 0x08]).window
        = .ud (.vpcmpeqwXmm ⟨false, false⟩ 1 2 (.mem (.base 0 .none))) 1
      ∧ 0x1000 + ((Instr.vpcmpeqwXmm ⟨false, false⟩ 1 2 (.mem (.base 0 .none))).len + 1) < 2 ^ start.addrBits
      ∧ alignmentRefused .vex128
        ((Instr.vpcmpeqwXmm ⟨false, false⟩ 1 2 (.mem (.base 0 .none))).access ((checked (setX 0 0x3001 start)).advance 1))
        (checked (setX 0 0x3001 start)) = true := by decide +kernel

/-- InstructionPastTheTopIsRefused: a form that ends exactly at the top, and bytes that miss one there, in both modes. -/
theorem witness_past_the_top :
    2 ^ start.addrBits ≤ ({ start with pc := 0xFFFFFFFFFFFFFFFD } : State).pc.toNat
          + (Instr.pcmpeqbMm ⟨false, false⟩ 0 (.reg 1)).len
      ∧ ∀ s ∈ [({ start with pc := 0xFFFFFFFFFFFFFFFE } : State).placeAtPc [0x0F, 0x74],
          ({ start32 with pc := 0xFFFFFFFE } : State).placeAtPc [0x0F, 0x74]],
        s.ended = false ∧ decode s.cfg.mode64 s.window = .more .modrm
          ∧ 2 ^ s.addrBits ≤ s.pc.toNat + (s.window.length + 1) := by decide +kernel

/-- StepAtEndAddressChangesNothing. -/
theorem witness_end : ({ start with endAddr := some 0x1000 } : State).endAddr = some ({ start with endAddr := some 0x1000 } : State).pc := by
  decide

/-- CompareHelpersCompareEachElement, EqLanesComparesEachLane and EqMaskSetsABitPerEqualLane: the last lane of the widest operands, whole operands unequal. -/
theorem witness_lanes :
    15 < 16 ∧ 7 < 8 ∧ 3 < 4 ∧ 8 * 64 ≤ 512 ∧ 63 < 64 ∧ ((8 : Nat) = 8 ∨ 8 = 16 ∨ 8 = 32)
      ∧ lane 8 63 (BitVec.ofNat 512 (2 ^ 504)) = lane 8 63 (BitVec.ofNat 512 (2 ^ 504 + 1))
      ∧ BitVec.ofNat 512 (2 ^ 504) ≠ BitVec.ofNat 512 (2 ^ 504 + 1)
      ∧ ∀ j, j < 16 → (0xFFFF : Nat).testBit j = (0x1FFFF : Nat).testBit j := by decide +kernel

/-- BroadcastRepeatsTheDoubleword and MemReadIsLittleEndian: the last lane, the last byte, the default launch and one with
other writers. -/
theorem witness_reads :
    15 < VecLen.v512.bits / 32 ∧ 63 < 64 ∧ start.otherWriters = false
      ∧ ({ start with otherWriters := true } : State).otherWriters = true := by decide

/-- SourcesAreRegistersOrMemory and OperandSizesAreTheTables: an access of every form with memory, and of a broadcast. -/
theorem witness_accesses :
    ∀ i ∈ [Instr.pcmpeqbMm ⟨false, false⟩ 0 (.mem (.base 0 .none)), .pcmpeqbXmm ⟨false, false⟩ 0 (.mem (.base 0 .none)),
        .vpcmpeqbXmm ⟨false, false⟩ 1 2 (.mem (.base 0 .none)), .vpcmpeqbYmm ⟨false, false⟩ 1 2 (.mem (.base 0 .none)),
        .vpcmpeqbK512 false 1 none 2 (.mem (.base 0 .none)), .vpcmpeqdK512 false 1 none 2 (.mem (.base 0 .none)),
        .vpcmpeqdK128 false 1 none 2 (.bcst (.base 0 .none))],
      ∃ b ∈ [4, 8, 16, 32, 64], i.access (setX 0 0x3000 start) = some ⟨0x3000, b, false⟩ := by decide +kernel

/-- PcmpeqMmCompletes: a register, and memory that is not aligned; MmxFormsFrame: both go on. -/
theorem witness_mmx_ready :
    formReady .mmx (mmLen ⟨false, false⟩ (.reg 1)) (mmAccess ⟨false, false⟩ (.reg 1) start) start = true
      ∧ formReady .mmx (mmLen ⟨false, false⟩ (.mem (.base 0 .none)))
        (mmAccess ⟨false, false⟩ (.mem (.base 0 .none)) (setX 0 0x3001 start)) (setX 0 0x3001 start) = true
      ∧ formReady .mmx (mmLen ⟨false, false⟩ (.mem (.base 0 .none)))
        (mmAccess ⟨false, false⟩ (.mem (.base 0 .none)) start32) start32 = true := by decide +kernel
theorem witness_mmx_frame :
    (∃ t, exec (.pcmpeqbMm ⟨false, false⟩ 0 (.reg 1)) start = .next t)
      ∧ (∃ t, exec (.pcmpeqwMm ⟨false, false⟩ 0 (.mem (.base 0 .none))) start = .next t)
      ∧ ∃ t, exec (.pcmpeqdMm ⟨false, false⟩ 0 (.mem (.base 0 .none))) start32 = .next t :=
  ⟨next_of_goesOn (by decide +kernel), next_of_goesOn (by decide +kernel), next_of_goesOn (by decide +kernel)⟩

/-- PcmpeqXmmCompletes: a register, and memory at a multiple of 16; SseFormsFrame. -/
theorem witness_sse_ready :
    formReady .sse2 (xmmLen ⟨false, false⟩ (.reg 1)) (xmmAccess ⟨false, false⟩ (.reg 1) start) start = true
      ∧ formReady .sse2 (xmmLen ⟨false, false⟩ (.mem (.base 0 .none)))
        (xmmAccess ⟨false, false⟩ (.mem (.base 0 .none)) (setX 0 0x3010 start)) (setX 0 0x3010 start) = true := by
  decide +kernel
theorem witness_sse_frame :
    (∃ t, exec (.pcmpeqbXmm ⟨false, false⟩ 0 (.reg 1)) start = .next t)
      ∧ (∃ t, exec (.pcmpeqwXmm ⟨false, false⟩ 0 (.mem (.base 0 .none))) start = .next t)
      ∧ ∃ t, exec (.pcmpeqdXmm ⟨false, false⟩ 0 (.reg 0)) start32 = .next t :=
  ⟨next_of_goesOn (by decide +kernel), next_of_goesOn (by decide +kernel), next_of_goesOn (by decide +kernel)⟩

/-- VpcmpeqXmmCompletes and VpcmpeqYmmCompletes: a register, and memory that is not aligned; VexFormsFrame. -/
theorem witness_vex_ready :
    formReady .vex128 (vexLen ⟨false, false⟩ (.reg 3)) (vexAccess .v128 ⟨false, false⟩ (.reg 3) start) start = true
      ∧ formReady .vex128 (vexLen ⟨false, false⟩ (.mem (.base 0 .none)))
        (vexAccess .v128 ⟨false, false⟩ (.mem (.base 0 .none)) (setX 0 0x3008 start)) (setX 0 0x3008 start) = true
      ∧ formReady .vex256 (vexLen ⟨false, false⟩ (.reg 3)) (vexAccess .v256 ⟨false, false⟩ (.reg 3) start) start = true
      ∧ formReady .vex256 (vexLen ⟨false, false⟩ (.mem (.base 0 .none)))
        (vexAccess .v256 ⟨false, false⟩ (.mem (.base 0 .none)) (setX 0 0x3008 start)) (setX 0 0x3008 start) = true := by
  decide +kernel
theorem witness_vex_frame :
    (∃ t, exec (.vpcmpeqbXmm ⟨false, false⟩ 1 2 (.reg 3)) start = .next t)
      ∧ (∃ t, exec (.vpcmpeqwXmm ⟨false, false⟩ 1 2 (.mem (.base 0 .none))) start = .next t)
      ∧ (∃ t, exec (.vpcmpeqdYmm ⟨false, false⟩ 1 1 (.reg 1)) start = .next t)
      ∧ ∃ t, exec (.vpcmpeqbYmm ⟨false, false⟩ 1 2 (.mem (.base 0 .none))) start32 = .next t :=
  ⟨next_of_goesOn (by decide +kernel), next_of_goesOn (by decide +kernel), next_of_goesOn (by decide +kernel),
    next_of_goesOn (by decide +kernel)⟩

/-- VpcmpeqdMaskCompletes, each length: a register, memory and broadcast. -/
theorem witness_evexD_ready :
    ∀ vl ∈ [VecLen.v128, .v256, .v512],
      ∀ src ∈ [RmBcst.reg 31, .mem (.base 0 (.d8 1)), .bcst (.base 0 (.d8 1))],
        formReady (.evexD vl) (evexLen false src.len) (evexDAccess vl false src start) start = true := by decide +kernel
/-- VpcmpeqbMaskCompletes and VpcmpeqwMaskCompletes, each length: a register and memory. -/
theorem witness_evexBW_ready :
    ∀ vl ∈ [VecLen.v128, .v256, .v512], ∀ src ∈ [Rm.reg (31 : Fin 32), .mem (.base 0 (.d8 1))],
      formReady (.evexBW vl) (evexLen false src.len) (evexAccess vl false src start) start = true := by decide +kernel
/-- EvexFormsFrame, and the statements that say what follows when any instruction goes on. -/
theorem witness_evex_frame :
    (∃ t, exec (.vpcmpeqdK128 false 1 (some 2) 2 (.bcst (.base 0 .none))) start = .next t)
      ∧ (∃ t, exec (.vpcmpeqbK256 false 1 (some 2) 2 (.mem (.base 0 .none))) start = .next t)
      ∧ ∃ t, exec (.vpcmpeqwK512 false 1 none 31 (.reg 30)) start = .next t :=
  ⟨next_of_goesOn (by decide +kernel), next_of_goesOn (by decide +kernel), next_of_goesOn (by decide +kernel)⟩

/-- FlagsAreNeitherWrittenNorRead: flags that differ in every bit but 18, and a fault. -/
theorem witness_flags :
    (0xFFFFFFFFFFFBFFFF#64).getLsbD 18 = start.eflags.getLsbD 18
      ∧ exec (.pcmpeqbXmm ⟨false, false⟩ 0 (.mem (.base 0 .none))) (setX 0 0x3008 start) = .fault (.gp 0x1000) :=
  ⟨by decide +kernel, fault_of_raised (by decide +kernel)⟩

/-- EvexIgnoresOldDestination: no writemask, and another register's; VexIgnoresOldDestination. -/
theorem witness_old_destination :
    (none : Option (Fin 8)) ≠ some 1 ∧ some (2 : Fin 8) ≠ some 1 ∧ (2 : Fin 16) ≠ 1 ∧ (Rm.reg 3 : Rm 16) ≠ .reg 1 := by
  decide

/-- Only the flags up to AVX. -/
def avxOnly : State := setFeat ⟨true, true, true, false, false, false, false⟩ start

/-- UnsupportedFormRaisesUd: a flag that is 0, and a state class that is not enabled. -/
theorem witness_unsupported :
    (pcFits (Instr.vpcmpeqbYmm ⟨false, false⟩ 1 2 (.reg 3)).len avxOnly = true
        ∧ alignmentRefused .vex256 none avxOnly = false
        ∧ (FormClass.vex256.supported avxOnly.cfg.feat && FormClass.vex256.enabled avxOnly) = false)
      ∧ pcFits (Instr.pcmpeqbXmm ⟨false, false⟩ 0 (.reg 1)).len { start with cr4 := 0 } = true
        ∧ alignmentRefused .sse2 none { start with cr4 := 0 } = false
        ∧ (FormClass.sse2.supported start.cfg.feat && FormClass.sse2.enabled { start with cr4 := 0 }) = false := by
  decide +kernel

/-- TaskSwitchedRaisesNm: one form of each kind of class. -/
theorem witness_ts :
    ∀ i ∈ [Instr.pcmpeqbMm ⟨false, false⟩ 0 (.reg 1), .pcmpeqbXmm ⟨false, false⟩ 0 (.reg 1),
        .vpcmpeqbYmm ⟨false, false⟩ 1 2 (.reg 3), .vpcmpeqdK128 false 1 none 2 (.reg 3),
        .vpcmpeqwK512 false 1 none 2 (.reg 3)],
      pcFits i.len { start with cr0 := 8 } = true
        ∧ alignmentRefused i.formClass (i.access { start with cr0 := 8 }) { start with cr0 := 8 } = false
        ∧ (i.formClass.supported start.cfg.feat && i.formClass.enabled { start with cr0 := 8 }) = true
        ∧ State.ts { start with cr0 := 8 } = true := by decide +kernel

/-- The start state with a pending x87 exception. -/
def pendingStart : State := { start with cfg := { Config.usual with x87Pending := true } }

/-- PendingX87ExceptionRaisesMf. -/
theorem witness_mf :
    (Instr.pcmpeqbMm ⟨false, false⟩ 0 (.reg 1)).formClass = .mmx
      ∧ pcFits (Instr.pcmpeqbMm ⟨false, false⟩ 0 (.reg 1)).len pendingStart = true
      ∧ pendingStart.cfg.feat.mmx = true ∧ pendingStart.mmxEnabled = true ∧ pendingStart.ts = false
      ∧ pendingStart.cfg.x87Pending = true := by decide +kernel

/-- MisalignedSseOperandRaisesGp: the remainders 1 and 15. -/
theorem witness_sse_misaligned :
    (Instr.pcmpeqbXmm ⟨false, false⟩ 0 (.mem (.base 0 .none))).formClass = .sse2
      ∧ ∀ a ∈ [(0x3001#64, 1), (0x300F#64, 15)],
        pcFits (Instr.pcmpeqbXmm ⟨false, false⟩ 0 (.mem (.base 0 .none))).len (setX 0 a.1 start) = true
          ∧ formAllowed .sse2 (setX 0 a.1 start) = true
          ∧ (Instr.pcmpeqbXmm ⟨false, false⟩ 0 (.mem (.base 0 .none))).access (setX 0 a.1 start) = some ⟨a.1, 16, false⟩
          ∧ a.1.toNat % 16 = a.2 := by decide +kernel

/-- NonCanonicalOperandFaults: through DS (base 0) and through SS (base 5), with the last byte (j = 15) the only one that is
not canonical. -/
theorem witness_non_canonical :
    ∀ c ∈ [((0 : Fin 16), false), (5, true)],
      pcFits (Instr.vpcmpeqbXmm ⟨false, false⟩ 1 2 (.mem (.base c.1 (.d8 0)))).len (setX c.1 0x00007FFFFFFFFFF1 start) = true
        ∧ (Instr.vpcmpeqbXmm ⟨false, false⟩ 1 2 (.mem (.base c.1 (.d8 0)))).formClass = .vex128
        ∧ formAllowed .vex128 (setX c.1 0x00007FFFFFFFFFF1 start) = true
        ∧ (Instr.vpcmpeqbXmm ⟨false, false⟩ 1 2 (.mem (.base c.1 (.d8 0)))).access (setX c.1 0x00007FFFFFFFFFF1 start)
          = some ⟨0x00007FFFFFFFFFF1, 16, c.2⟩
        ∧ alignmentRefused .vex128 (some ⟨0x00007FFFFFFFFFF1, 16, c.2⟩) (setX c.1 0x00007FFFFFFFFFF1 start) = false
        ∧ (setX c.1 0x00007FFFFFFFFFF1 start).cfg.mode64 = true
        ∧ canonical start.cfg.laBits (0x00007FFFFFFFFFF1 + 14) = true
        ∧ canonical start.cfg.laBits (0x00007FFFFFFFFFF1 + 15) = false := by decide +kernel

/-- InaccessibleOperandRaisesPf: the first byte (j = 0) and the last (j = 15) of a 16-byte operand of a legacy form. -/
theorem witness_inaccessible :
    ∀ j ∈ [0, 15],
      pcFits (Instr.pcmpeqbXmm ⟨false, false⟩ 0 (.mem (.base 0 .none))).len (below (0x3000 + j) (setX 0 0x3000 start)) = true
        ∧ (Instr.pcmpeqbXmm ⟨false, false⟩ 0 (.mem (.base 0 .none))).formClass = .sse2 ∧ (0x3000#64).toNat % 16 = 0
        ∧ formAllowed .sse2 (below (0x3000 + j) (setX 0 0x3000 start)) = true
        ∧ (Instr.pcmpeqbXmm ⟨false, false⟩ 0 (.mem (.base 0 .none))).access (below (0x3000 + j) (setX 0 0x3000 start))
          = some ⟨0x3000, 16, false⟩
        ∧ alignmentRefused .sse2 (some ⟨0x3000, 16, false⟩) (below (0x3000 + j) (setX 0 0x3000 start)) = false
        ∧ (0x3000#64).toNat + 16 ≤ 2 ^ start.addrBits
        ∧ (∀ n, n < 16 → canonical start.cfg.laBits (0x3000 + n) = true) ∧ j < 16
        ∧ (∀ n, n < 16 → (below (0x3000 + j) (setX 0 0x3000 start)).onDevice (0x3000 + n) = false)
        ∧ (∀ n, n < j → (below (0x3000 + j) (setX 0 0x3000 start)).byteAccessible (0x3000 + n) = true)
        ∧ (below (0x3000 + j) (setX 0 0x3000 start)).byteAccessible (0x3000 + j) = false := by decide +kernel

/-- OperandAcrossTheTopRaisesPf: one byte over the top, in both modes. -/
theorem witness_across_the_top :
    ∀ c ∈ [(start, 0xFFFFFFFFFFFFFFE1#64), (start32, 0xFFFFFFE1#64)],
      pcFits (Instr.vpcmpeqbYmm ⟨false, false⟩ 1 2 (.mem (.base 0 .none))).len (setX 0 c.2 c.1) = true
        ∧ (Instr.vpcmpeqbYmm ⟨false, false⟩ 1 2 (.mem (.base 0 .none))).formClass = .vex256
        ∧ formAllowed .vex256 (setX 0 c.2 c.1) = true
        ∧ (Instr.vpcmpeqbYmm ⟨false, false⟩ 1 2 (.mem (.base 0 .none))).access (setX 0 c.2 c.1) = some ⟨c.2, 32, false⟩
        ∧ 2 ^ c.1.addrBits < c.2.toNat + 32 ∧ alignmentRefused .vex256 (some ⟨c.2, 32, false⟩) (setX 0 c.2 c.1) = false
        ∧ (∀ n, n < 32 → canonical start.cfg.laBits (c.2.toNat + n) = true ∨ c.1.cfg.mode64 = false)
        ∧ (∀ n, n < 32 → (setX 0 c.2 c.1).onDevice (c.2.toNat + n) = false)
        ∧ ∀ n, n < 32 → c.2.toNat + n < 2 ^ c.1.addrBits → (setX 0 c.2 c.1).byteAccessible (c.2.toNat + n) = true := by
  decide +kernel

/-- DeviceOperandIsRefused: the last byte (j = 15) of a VEX operand, and the first (j = 0) of a legacy one. -/
theorem witness_device :
    ∀ c ∈ [(Instr.vpcmpeqbXmm ⟨false, false⟩ 1 2 (.mem (.base 0 .none)), FormClass.vex128, 0x2FF1#64, 15),
        (.pcmpeqbXmm ⟨false, false⟩ 1 (.mem (.base 0 .none)), .sse2, 0x3000#64, 0)],
      pcFits c.1.len (setX 0 c.2.2.1 (device start)) = true ∧ c.1.formClass = c.2.1
        ∧ formAllowed c.2.1 (setX 0 c.2.2.1 (device start)) = true
        ∧ c.1.access (setX 0 c.2.2.1 (device start)) = some ⟨c.2.2.1, 16, false⟩
        ∧ alignmentRefused c.2.1 (some ⟨c.2.2.1, 16, false⟩) (setX 0 c.2.2.1 (device start)) = false
        ∧ (c.2.1 = .sse2 → c.2.2.1.toNat % 16 = 0)
        ∧ (∀ n, n < 16 → canonical start.cfg.laBits (c.2.2.1.toNat + n) = true) ∧ c.2.2.2 < 16
        ∧ (device start).onDevice (c.2.2.1.toNat + c.2.2.2) = true := by decide +kernel

/-- MisalignedMmxOperandRaisesAc: the remainder 7. -/
theorem witness_ac :
    (Instr.pcmpeqbMm ⟨false, false⟩ 0 (.mem (.base 0 .none))).formClass = .mmx
      ∧ pcFits 3 (checked (setX 0 0x3007 start)) = true ∧ formAllowed .mmx (checked (setX 0 0x3007 start)) = true
      ∧ (Instr.pcmpeqbMm ⟨false, false⟩ 0 (.mem (.base 0 .none))).access (checked (setX 0 0x3007 start))
        = some ⟨0x3007, 8, false⟩
      ∧ (checked (setX 0 0x3007 start)).acChecking = true ∧ (0x3007#64).toNat % 8 ≠ 0
      ∧ (∀ n, n < 8 → canonical start.cfg.laBits (0x3007 + n) = true)
      ∧ ∀ n, n < 8 → (checked (setX 0 0x3007 start)).byteAccessible (0x3007 + n) = true := by decide +kernel

/-- MisalignedVexOrEvexOperandIsRefused: a VEX operand, and a broadcast that is not a multiple of 4. -/
theorem witness_ac_refused :
    ∀ c ∈ [(Instr.vpcmpeqbYmm ⟨false, false⟩ 1 2 (.mem (.base 0 .none)), 0x3010#64, 32),
        (Instr.vpcmpeqdK512 false 1 none 2 (.bcst (.base 0 .none)), 0x3002#64, 4)],
      c.1.formClass ≠ .mmx ∧ c.1.formClass ≠ .sse2 ∧ pcFits c.1.len (checked (setX 0 c.2.1 start)) = true
        ∧ c.1.access (checked (setX 0 c.2.1 start)) = some ⟨c.2.1, c.2.2, false⟩
        ∧ (checked (setX 0 c.2.1 start)).acChecking = true ∧ c.2.1.toNat % c.2.2 ≠ 0 := by decide +kernel

/-- WritemaskSuppressesNoFault (it has no hypothesis): a fault under the writemask K2 = 0. -/
theorem witness_masked_fault :
    exec (.vpcmpeqdK512 false 1 (some 2) 2 (.mem (.base 0 .none))) (below 0x2000 (setX 0 0x3000 start))
      = .fault (.pf 0x3000 0x1000) := fault_of_raised (by decide +kernel)

/-- FaultsRecordTheInstructionsPc. -/
theorem witness_step_fault : step (start.placeAtPc [0xF0, 0x0F, 0x74, 0xC1]) = .fault (.ud 0x1000) :=
  fault_of_raised (by decide +kernel)

/-- StepKeepsTheInvariant: a state with full registers and a listed byte of memory that steps. -/
theorem witness_inv : (dwordStart.placeAtPc [0x0F, 0x74, 0xC1]).Inv where
  config := by decide +kernel
  zmm := by decide +kernel
  k := by decide +kernel
  pc := by decide +kernel
  enables := by decide +kernel
  mem := by decide +kernel
theorem witness_inv_step : ∃ t, step (dwordStart.placeAtPc [0x0F, 0x74, 0xC1]) = .next t :=
  next_of_goesOn (by decide +kernel)

end Sys2Proof.Tests
end

section
/-! O59. Every step keeps the invariant of the state: one rule per state operation, then one per family of forms, then
the instruction and the step. -/

namespace Sys2Proof.Machine

/-! ### What a launch's configuration gives a supported form (R2, R7 to R9) -/

theorem config_wf_iff (c : Config) :
    c.wf = true ↔
      c.feat.wf = true
        ∧ (c.feat.avx512f = true → c.maxVl.bits = 512)
        ∧ (c.feat.avx = true → 256 ≤ c.maxVl.bits)
        ∧ (c.feat.avx512f = true → 16 ≤ c.maxKl)
        ∧ (c.feat.avx512bw = true → 64 ≤ c.maxKl) := by
  simp [Config.wf, and_assoc, imp_iff_not_or]

theorem avx_of_avx2 {f : Features} (hf : f.wf = true) (h : f.avx2 = true) : f.avx = true := by
  simp_all [Features.wf]

theorem vecLen_bits_le (vl : VecLen) : vl.bits ≤ 512 := by cases vl <;> decide

theorem maxVl_bits_ge (m : MaxVl) : 128 ≤ m.bits := by cases m <;> decide

/-- A supported VEX form is no wider than a vector register (R8); `hvl` leaves out the length that no VEX form has. -/
theorem vex_bits_le_maxVl {c : Config} {vl : VecLen} (hc : c.wf = true) (hvl : vl.bits ≤ 256)
    (hs : (vexClass vl).supported c.feat = true) : vl.bits ≤ c.maxVl.bits := by
  obtain ⟨hfeat, -, hwide, -, -⟩ := (config_wf_iff c).1 hc
  have havx : c.feat.avx = true := by
    cases vl with
    | v128 => exact hs
    | v256 => exact avx_of_avx2 hfeat hs
    | v512 => exact avx_of_avx2 hfeat hs
  exact hvl.trans (hwide havx)

/-- A supported EVEX VPCMPEQD compares no more doublewords than an opmask register has bits (R9). -/
theorem evexD_lanes_le_maxKl {c : Config} {vl : VecLen} (hc : c.wf = true)
    (hs : (FormClass.evexD vl).supported c.feat = true) : vl.bits / 32 ≤ c.maxKl := by
  obtain ⟨-, -, -, hk, -⟩ := (config_wf_iff c).1 hc
  have hf : c.feat.avx512f = true := (Bool.and_eq_true_iff.1 hs).1
  calc vl.bits / 32 ≤ 512 / 32 := Nat.div_le_div_right (vecLen_bits_le vl)
    _ ≤ c.maxKl := hk hf

/-- A supported EVEX form on elements of a byte or more compares no more of them than an opmask register has bits (R9). -/
theorem evexBW_lanes_le_maxKl {c : Config} {vl : VecLen} {w : Nat} (hc : c.wf = true) (hw : 8 ≤ w)
    (hs : (FormClass.evexBW vl).supported c.feat = true) : vl.bits / w ≤ c.maxKl := by
  obtain ⟨-, -, -, -, hk⟩ := (config_wf_iff c).1 hc
  have hbw : c.feat.avx512bw = true := (Bool.and_eq_true_iff.1 hs).1
  calc vl.bits / w ≤ 512 / 8 := Nat.div_le_div (vecLen_bits_le vl) hw (by decide)
    _ ≤ c.maxKl := hk hbw

/-! ### What a form that completes has met -/

theorem formReady_iff (c : FormClass) (len : Nat) (acc : Option Access) (s : State) :
    formReady c len acc s = true ↔
      s.pc.toNat + len < 2 ^ s.addrBits ∧ formAllowed c s = true ∧ acc.all (fun a => a.readable c s) = true := by
  simp [formReady, pcFits, and_assoc]

theorem supported_of_formReady {c : FormClass} {len : Nat} {acc : Option Access} {s : State}
    (h : formReady c len acc s = true) : c.supported s.cfg.feat = true := by
  obtain ⟨-, hallowed, -⟩ := (formReady_iff c len acc s).1 h
  simp only [formAllowed, Bool.and_eq_true] at hallowed
  obtain ⟨⟨⟨hsupported, -⟩, -⟩, -⟩ := hallowed
  exact hsupported

/-- When a step goes on: the run is over, or an instruction is fetched and completes (R107, R184). -/
theorem step_eq_next (s t : State) :
    step s = .next t ↔
      (s.ended = true ∧ t = s) ∨ (s.ended = false ∧ ∃ i, s.fetch = .next i ∧ exec i s = .next t) := by
  unfold step
  cases s.ended with
  | true => simp [eq_comm]
  | false => simp [andThen_eq_next]

/-! ### The width of what is written -/

/-- EqMask sets no bit at or above its number of lanes (R104). -/
theorem eqMask_lt {n : Nat} (w kl : Nat) (a b : BitVec n) (km : Option Opmask) : eqMask w kl a b km < 2 ^ kl := by
  induction kl with
  | zero => simp [eqMask]
  | succ j ih =>
    have hlow : eqMask w j a b km < 2 ^ (j + 1) := ih.trans (Nat.pow_lt_pow_succ (by decide))
    have hbit : (if maskEnables km j && lane w j a == lane w j b then 1 <<< j else 0) < 2 ^ (j + 1) := by
      split
      · rw [Nat.one_shiftLeft]
        exact Nat.pow_lt_pow_succ (by decide)
      · exact Nat.two_pow_pos _
    exact Nat.or_lt_two_pow hlow hbit

/-- Clearing the low bits of a value makes it no larger. -/
theorem toNat_clearLow_le {n : Nat} (k : Nat) (v : BitVec n) : (v >>> k <<< k).toNat ≤ v.toNat := by
  rw [BitVec.toNat_shiftLeft, BitVec.toNat_ushiftRight, Nat.shiftLeft_eq, Nat.shiftRight_eq_div_pow]
  exact (Nat.mod_le _ _).trans (Nat.div_mul_le_self _ _)

theorem toNat_setWidth_lt {w k : Nat} (n : Nat) (v : BitVec w) (h : w ≤ k) : (v.setWidth n).toNat < 2 ^ k := by
  rw [BitVec.toNat_setWidth]
  calc v.toNat % 2 ^ n ≤ v.toNat := Nat.mod_le _ _
    _ < 2 ^ w := v.isLt
    _ ≤ 2 ^ k := Nat.pow_le_pow_right (by decide) h

/-! ### The invariant and the state operations -/

section Operations

variable {s : State} (h : s.Inv)

include h

theorem countRead_inv (acc : Option Access) : (s.countRead acc).Inv := by
  cases acc with
  | none => exact h
  | some a => exact { h with }

theorem enterMmx_inv : s.enterMmx.Inv := { h with }

theorem writeMm_inv (i : Fin 8) (v : Mm) : (s.writeMm i v).Inv := { h with }

/-- A vector register may be written with what fits in MAXVL bits (R24). -/
theorem writeZmm_inv (i : Fin 32) {v : Zmm} (hv : v.toNat < 2 ^ s.cfg.maxVl.bits) : (s.writeZmm i v).Inv :=
  { h with
    zmm := fun j => by
      by_cases hj : j = i
      · subst hj
        simpa [readVec_writeZmm_same] using hv
      · simpa [readVec_writeZmm_other _ _ _ _ _ hj] using h.zmm j }

/-- A legacy write keeps the old bits above 127, and those below fit in every MAXVL (R8, R113). -/
theorem writeXmm_inv (i : Fin 32) (v : BitVec 128) : (s.writeXmm i v).Inv := by
  have hold : (s.zmm[i] >>> 128 <<< 128).toNat < 2 ^ s.cfg.maxVl.bits :=
    (toNat_clearLow_le 128 s.zmm[i]).trans_lt (by simpa [State.readVec] using h.zmm i)
  have hnew : (v.setWidth 512).toNat < 2 ^ s.cfg.maxVl.bits := toNat_setWidth_lt 512 v (maxVl_bits_ge _)
  refine writeZmm_inv h i ?_
  rw [BitVec.toNat_or]
  exact Nat.or_lt_two_pow hold hnew

/-- A VEX write is zero above its vector length (R121, R124). -/
theorem writeVec_inv {w : Nat} (i : Fin 32) (v : BitVec w) (hw : w ≤ s.cfg.maxVl.bits) : (s.writeVec i v).Inv :=
  writeZmm_inv h i (toNat_setWidth_lt 512 v hw)

/-- An opmask register may be written with what fits in MAX_KL bits (R25). -/
theorem writeK_inv (i : Fin 8) {v : Opmask} (hv : v < 2 ^ s.cfg.maxKl) : (s.writeK i v).Inv :=
  { h with
    k := fun j => by
      by_cases hj : j = i
      · subst hj
        simpa [readK_writeK_same] using hv
      · simpa [readK_writeK_other _ _ _ _ hj] using h.k j }

/-- pc may advance within the address space (R21). -/
theorem advance_inv {len : Nat} (hfit : s.pc.toNat + len < 2 ^ s.addrBits) : (s.advance len).Inv :=
  { h with
    pc := by
      show (s.pc + BitVec.ofNat 64 len).toNat < 2 ^ s.addrBits
      calc (s.pc + BitVec.ofNat 64 len).toNat ≤ s.pc.toNat + len := by
            rw [BitVec.toNat_add, BitVec.toNat_ofNat]
            exact (Nat.mod_le _ _).trans (Nat.add_le_add_left (Nat.mod_le _ _) _)
        _ < 2 ^ s.addrBits := hfit }

end Operations

/-- After the writes of a form that was ready, which leave pc and the configuration alone, pc may advance (R107). -/
theorem advance_inv_of_formReady {c : FormClass} {len : Nat} {acc : Option Access} {s u : State}
    (hready : formReady c len acc s = true) (hpc : u.pc = s.pc) (hcfg : u.cfg = s.cfg) (hu : u.Inv) :
    (u.advance len).Inv := by
  refine advance_inv hu ?_
  rw [State.addrBits, hpc, hcfg]
  exact ((formReady_iff c len acc s).1 hready).1

/-! ### The invariant and the families of forms -/

section Families

variable {s t : State} (h : s.Inv)

include h

theorem runMmx_inv {f : Mm → Mm → Mm} {p : LegacyPrefix} {dst : Fin 8} {src : Rm 8}
    (ht : runMmx f p dst src s = .next t) : t.Inv := by
  obtain ⟨hready, rfl⟩ := (runMmx_eq_next ..).1 ht
  exact advance_inv_of_formReady hready (by simp) (by simp) (writeMm_inv (enterMmx_inv (countRead_inv h _)) _ _)

theorem runSse_inv {f : BitVec 128 → BitVec 128 → BitVec 128} {p : LegacyPrefix} {dst : Fin 16} {src : Rm 16}
    (ht : runSse f p dst src s = .next t) : t.Inv := by
  obtain ⟨hready, rfl⟩ := (runSse_eq_next ..).1 ht
  exact advance_inv_of_formReady hready (by simp) (by simp) (writeXmm_inv (countRead_inv h _) _ _)

theorem runVex_inv {vl : VecLen} {f : BitVec vl.bits → BitVec vl.bits → BitVec vl.bits} {p : VexPrefix}
    {dst src1 : Fin 16} {src2 : Rm 16} (hvl : vl.bits ≤ 256) (ht : runVex vl f p dst src1 src2 s = .next t) :
    t.Inv := by
  obtain ⟨hready, rfl⟩ := (runVex_eq_next ..).1 ht
  have hw : vl.bits ≤ s.cfg.maxVl.bits := vex_bits_le_maxVl h.config hvl (supported_of_formReady hready)
  exact advance_inv_of_formReady hready (by simp) (by simp)
    (writeVec_inv (countRead_inv h _) _ _ (by simpa using hw))

/-- A compare whose lanes are no more than MAX_KL may be written to an opmask register after the operand read. -/
theorem writeK_eqMask_inv {n w kl : Nat} {a b : BitVec n} {km : Option Opmask} (acc : Option Access) (dst : Fin 8)
    (hkl : kl ≤ s.cfg.maxKl) : ((s.countRead acc).writeK dst (eqMask w kl a b km)).Inv := by
  refine writeK_inv (countRead_inv h acc) dst ?_
  rw [countRead_cfg]
  exact (eqMask_lt w kl a b km).trans_le (Nat.pow_le_pow_right (by decide) hkl)

theorem runEvexD_inv {vl : VecLen} {addr32 : Bool} {dst : Fin 8} {mask : Option (Fin 8)} {src1 : Fin 32}
    {src2 : RmBcst} (ht : runEvexD vl addr32 dst mask src1 src2 s = .next t) : t.Inv := by
  obtain ⟨hready, rfl⟩ := (runEvexD_eq_next ..).1 ht
  have hkl := evexD_lanes_le_maxKl h.config (supported_of_formReady hready)
  exact advance_inv_of_formReady hready (by simp) (by simp) (writeK_eqMask_inv h _ _ hkl)

theorem runEvexBW_inv {w : Nat} {vl : VecLen} {addr32 : Bool} {dst : Fin 8} {mask : Option (Fin 8)} {src1 : Fin 32}
    {src2 : Rm 32} (hw : 8 ≤ w) (ht : runEvexBW w vl addr32 dst mask src1 src2 s = .next t) : t.Inv := by
  obtain ⟨hready, rfl⟩ := (runEvexBW_eq_next ..).1 ht
  have hkl := evexBW_lanes_le_maxKl h.config hw (supported_of_formReady hready)
  exact advance_inv_of_formReady hready (by simp) (by simp) (writeK_eqMask_inv h _ _ hkl)

/-- Every instruction that completes keeps the invariant, by the family it belongs to. -/
theorem exec_inv {i : Instr} (ht : exec i s = .next t) : t.Inv := by
  cases i with
  | pcmpeqbMm | pcmpeqwMm | pcmpeqdMm => exact runMmx_inv h ht
  | pcmpeqbXmm | pcmpeqwXmm | pcmpeqdXmm => exact runSse_inv h ht
  | vpcmpeqbXmm | vpcmpeqwXmm | vpcmpeqdXmm => exact runVex_inv (vl := .v128) h (by decide) ht
  | vpcmpeqbYmm | vpcmpeqwYmm | vpcmpeqdYmm => exact runVex_inv (vl := .v256) h (by decide) ht
  | vpcmpeqdK128 | vpcmpeqdK256 | vpcmpeqdK512 => exact runEvexD_inv h ht
  | vpcmpeqbK128 | vpcmpeqbK256 | vpcmpeqbK512 => exact runEvexBW_inv (w := 8) h (by decide) ht
  | vpcmpeqwK128 | vpcmpeqwK256 | vpcmpeqwK512 => exact runEvexBW_inv (w := 16) h (by decide) ht

end Families

end Sys2Proof.Machine

namespace Sys2Proof.Proofs

open Machine

/-- Settles O59: a step leaves the state of a run that is over as it is, and otherwise executes one instruction. -/
theorem stepKeepsTheInvariant : Obligations.StepKeepsTheInvariant := by
  intro s t h ht
  rcases (step_eq_next s t).1 ht with ⟨-, rfl⟩ | ⟨-, i, -, hexec⟩
  · exact h
  · exact exec_inv h hexec

end Sys2Proof.Proofs
end

section
/-! Family 20_memory.md: the address, the bytes and the values of memory operands (O26, O28, O29, O30), and that no form
writes memory (O42). -/

namespace Sys2Proof.Machine

/-! ### Reading memory (R41, R49) -/

theorem readByte_of_default {s : State} (h : s.otherWriters = false) (a : Nat) : s.readByte a = s.mem.read a := by
  simp [State.readByte, h]

theorem readByte_of_otherWriters {s : State} (h : s.otherWriters = true) (a : Nat) :
    s.readByte a = Config.oracleByte s.reads a := by
  simp [State.readByte, h]

/-- Byte `i` of the number that the bytes write, least significant first. -/
theorem leNat_readBytes_byte (s : State) (a n i : Nat) (hi : i < n) :
    leNat (s.readBytes a n) / 256 ^ i % 256 = (s.readByte (a + i)).toNat := by
  induction n generalizing a i with
  | zero => omega
  | succ n ih =>
    have hlow : (s.readByte a).toNat < 256 := (s.readByte a).isLt
    cases i with
    | zero =>
      simp only [State.readBytes, leNat, pow_zero, Nat.div_one, Nat.add_zero]
      omega
    | succ i =>
      have htail : ((s.readByte a).toNat + 256 * leNat (s.readBytes (a + 1) n)) / 256
          = leNat (s.readBytes (a + 1) n) := by omega
      rw [State.readBytes, leNat, pow_succ', ← Nat.div_div_eq_div_mul, htail, ih (a + 1) i (by omega),
        show a + 1 + i = a + (i + 1) by omega]

/-- A field of a word that is given by a number: only that number's bits count. -/
theorem extractLsb'_ofNat {w start len : Nat} (h : start + len ≤ w) (v : Nat) :
    (BitVec.ofNat w v).extractLsb' start len = BitVec.ofNat len (v / 2 ^ start) := by
  apply BitVec.eq_of_getLsbD_eq
  intro j hj
  have hw : start + j < w := by omega
  rw [BitVec.getLsbD_extractLsb', BitVec.getLsbD_ofNat, BitVec.getLsbD_ofNat, Nat.testBit_div_two_pow,
    decide_eq_true hj, decide_eq_true hw, Nat.add_comm, Bool.true_and]

theorem memRead_byte (s : State) (a : Addr) (n i : Nat) (hi : i < n) :
    (s.memRead (8 * n) a).extractLsb' (8 * i) 8 = s.readByte (a.toNat + i) := by
  rw [State.memRead, extractLsb'_ofNat (by omega), Nat.mul_div_cancel_left n (by decide)]
  apply BitVec.eq_of_toNat_eq
  rw [BitVec.toNat_ofNat, Nat.pow_mul]
  exact leNat_readBytes_byte s a.toNat n i hi

/-! ### The effective address over the integers (R65, R66) -/

theorem addrSize_le (s : State) (addr32 : Bool) : s.addrSize addr32 ≤ 64 := by
  unfold State.addrSize
  split <;> decide

theorem addrReg_eq_ofInt (s : State) (size : Nat) (i : Fin 16) :
    s.addrReg size i = BitVec.ofInt 64 ((s.x[i].toNat % 2 ^ size : Nat) : Int) := by
  apply BitVec.eq_of_toNat_eq
  rw [State.addrReg, BitVec.toNat_setWidth, BitVec.toNat_setWidth, BitVec.ofInt_natCast, BitVec.toNat_ofNat]

theorem shiftLeft_ofInt (z : Int) (k : Nat) : BitVec.ofInt 64 z <<< k = BitVec.ofInt 64 (z * 2 ^ k) := by
  have hpow : BitVec.twoPow 64 k = BitVec.ofInt 64 (2 ^ k) := by
    rw [show (2 ^ k : Int) = ((2 ^ k : Nat) : Int) by simp, BitVec.ofInt_natCast]
    exact BitVec.eq_of_toNat_eq (by simp)
  rw [BitVec.shiftLeft_eq_mul_twoPow, hpow, BitVec.ofInt_mul]

theorem indexValue_eq_ofInt (s : State) (size : Nat) (idx : Fin 16) (scale : Fin 4) :
    s.indexValue size idx scale = BitVec.ofInt 64 (s.exactIndex size idx scale) := by
  unfold State.indexValue State.exactIndex
  split
  · rfl
  · rw [addrReg_eq_ofInt, shiftLeft_ofInt]

theorem dispValue_eq_ofInt (n : Nat) (d : Disp) : Disp.value n d = BitVec.ofInt 64 (Disp.exact n d) := by
  cases d with
  | none => rfl
  | d8 d => rw [Disp.value, Disp.exact, BitVec.ofInt_mul, BitVec.ofInt_natCast]; rfl
  | d32 d => rfl

/-- `ea0` is the exact sum modulo 2^64. -/
theorem rawAddress_eq_ofInt (s : State) (size n : Nat) (next : Addr) (m : MemOp) :
    s.rawAddress size n next m = BitVec.ofInt 64 (s.exactAddress size n next m) := by
  have hnext : (if s.cfg.mode64 then next else 0) = BitVec.ofInt 64 (if s.cfg.mode64 then (next.toNat : Int) else 0) := by
    split
    · simp
    · rfl
  cases m with
  | dispOnly d =>
    rw [State.rawAddress, State.exactAddress, BitVec.ofInt_add, hnext]
    rfl
  | base b d => rw [State.rawAddress, State.exactAddress, BitVec.ofInt_add, addrReg_eq_ofInt, dispValue_eq_ofInt]
  | sib b idx scale d =>
    rw [State.rawAddress, State.exactAddress, BitVec.ofInt_add, BitVec.ofInt_add, addrReg_eq_ofInt,
      indexValue_eq_ofInt, dispValue_eq_ofInt]
  | sibNoBase idx scale d =>
    rw [State.rawAddress, State.exactAddress, BitVec.ofInt_add, indexValue_eq_ofInt]
    rfl

/-- Cutting an address to a size that is no more than 64 bits takes the exact value modulo that size. -/
theorem toNat_cut_ofInt (z : Int) (size : Nat) (h : size ≤ 64) :
    ((((BitVec.ofInt 64 z).setWidth size).setWidth 64).toNat : Int) = z % 2 ^ size := by
  have hdvd : (2 ^ size : Int) ∣ 2 ^ 64 := pow_dvd_pow 2 h
  have hsmall : ((BitVec.ofInt 64 z).toNat % 2 ^ size) % 2 ^ 64 = (BitVec.ofInt 64 z).toNat % 2 ^ size :=
    Nat.mod_eq_of_lt ((Nat.mod_lt _ (Nat.two_pow_pos _)).trans_le (Nat.pow_le_pow_right (by decide) h))
  have hword : ((BitVec.ofInt 64 z).toNat : Int) = z % 2 ^ 64 := by
    rw [BitVec.toNat_ofInt, Int.toNat_of_nonneg (Int.emod_nonneg _ (by decide))]
    rfl
  rw [BitVec.toNat_setWidth, BitVec.toNat_setWidth, hsmall, Int.natCast_mod, hword, Nat.cast_pow, Nat.cast_two,
    Int.emod_emod_of_dvd _ hdvd]

theorem toNat_effectiveAddress (s : State) (addr32 : Bool) (n : Nat) (next : Addr) (m : MemOp) :
    ((s.effectiveAddress addr32 n next m).toNat : Int)
      = s.exactAddress (s.addrSize addr32) n next m % 2 ^ s.addrSize addr32 := by
  rw [State.effectiveAddress, rawAddress_eq_ofInt, toNat_cut_ofInt _ _ (addrSize_le s addr32)]

theorem usesSS_iff (m : MemOp) : usesSS m = true ↔ m.baseReg = some 4 ∨ m.baseReg = some 5 := by
  cases m <;> simp [usesSS, MemOp.baseReg]

/-- An instruction whose access is that of the memory operand `m` addresses it as R42, R45 and R65 say. -/
theorem addresses_of_access {i : Instr} {s : State} {a32 : Bool} {n bytes : Nat} {m : MemOp}
    (h : i.access s = some (s.memAccess a32 n i.len bytes m)) : i.Addresses s a32 n bytes m :=
  ⟨_, h, rfl, usesSS_iff m, toNat_effectiveAddress s a32 n _ m⟩

/-! ### The values of the sources (R116, R120, R130) -/

theorem vecLen_bytes (vl : VecLen) : 8 * (vl.bits / 8) = vl.bits := by cases vl <;> rfl

theorem readVec_eq_extractLsb' (s : State) {w : Nat} (h : w ≤ 512) (r : Fin 32) :
    s.readVec w r = s.zmm[r].extractLsb' 0 w :=
  BitVec.setWidth_eq_extractLsb' h

theorem lane_broadcast (n : Nat) (v : BitVec 32) {j : Nat} (h : j < n / 32) : lane 32 j (broadcast n v) = v := by
  apply BitVec.eq_of_getLsbD_eq
  intro k hk
  have hn : 32 * j + k < n := by omega
  have hrep : 32 * j + k < 32 * (n / 32) := by omega
  simp [lane, broadcast, hk, hn, hrep, Nat.mod_eq_of_lt hk]

section Sources

variable {s : State} {m : MemOp} {a : Access}

theorem mmSource_of_access {p : LegacyPrefix} (h : mmAccess p (.mem m) s = some a) :
    8 * a.bytes = 64 ∧ mmSource p (.mem m) s = s.memRead 64 a.addr := by
  cases h
  exact ⟨rfl, rfl⟩

theorem xmmSource_of_access {p : LegacyPrefix} (h : xmmAccess p (.mem m) s = some a) :
    8 * a.bytes = 128 ∧ xmmSource p (.mem m) s = s.memRead 128 a.addr := by
  cases h
  exact ⟨rfl, rfl⟩

theorem vexSource_of_access {vl : VecLen} {p : VexPrefix} (h : vexAccess vl p (.mem m) s = some a) :
    8 * a.bytes = vl.bits ∧ vexSource vl p (.mem m) s = s.memRead vl.bits a.addr := by
  cases h
  exact ⟨vecLen_bytes vl, rfl⟩

theorem evexSource_of_access {vl : VecLen} {a32 : Bool} (h : evexAccess vl a32 (.mem m) s = some a) :
    8 * a.bytes = vl.bits ∧ evexSource vl a32 (.mem m) s = s.memRead vl.bits a.addr := by
  cases h
  exact ⟨vecLen_bytes vl, rfl⟩

theorem evexDSource_of_access {vl : VecLen} {a32 : Bool} (h : evexDAccess vl a32 (.mem m) s = some a) :
    8 * a.bytes = vl.bits ∧ evexDSource vl a32 (.mem m) s = s.memRead vl.bits a.addr := by
  cases h
  exact ⟨vecLen_bytes vl, rfl⟩

theorem evexDSource_of_broadcast {vl : VecLen} {a32 : Bool} (h : evexDAccess vl a32 (.bcst m) s = some a) :
    8 * a.bytes = 32 ∧ ∀ j, j < vl.bits / 32 → lane 32 j (evexDSource vl a32 (.bcst m) s) = s.memRead 32 a.addr := by
  cases h
  exact ⟨rfl, fun j hj => lane_broadcast vl.bits _ hj⟩

end Sources

/-! ### What an instruction that completes does to memory and to the count of reads -/

theorem countRead_reads (s : State) (acc : Option Access) :
    (s.countRead acc).reads = s.reads + if acc.isSome then 1 else 0 := by
  cases acc <;> rfl

section Families

variable {s t : State}

theorem runMmx_mem_reads {f : Mm → Mm → Mm} {p : LegacyPrefix} {dst : Fin 8} {src : Rm 8}
    (h : runMmx f p dst src s = .next t) : t.mem = s.mem ∧ t.reads = (s.countRead (mmAccess p src s)).reads := by
  obtain ⟨-, rfl⟩ := (runMmx_eq_next ..).1 h
  simp

theorem runSse_mem_reads {f : BitVec 128 → BitVec 128 → BitVec 128} {p : LegacyPrefix} {dst : Fin 16} {src : Rm 16}
    (h : runSse f p dst src s = .next t) : t.mem = s.mem ∧ t.reads = (s.countRead (xmmAccess p src s)).reads := by
  obtain ⟨-, rfl⟩ := (runSse_eq_next ..).1 h
  simp

theorem runVex_mem_reads {vl : VecLen} {f : BitVec vl.bits → BitVec vl.bits → BitVec vl.bits} {p : VexPrefix}
    {dst src1 : Fin 16} {src2 : Rm 16} (h : runVex vl f p dst src1 src2 s = .next t) :
    t.mem = s.mem ∧ t.reads = (s.countRead (vexAccess vl p src2 s)).reads := by
  obtain ⟨-, rfl⟩ := (runVex_eq_next ..).1 h
  simp

theorem runEvexD_mem_reads {vl : VecLen} {addr32 : Bool} {dst : Fin 8} {mask : Option (Fin 8)} {src1 : Fin 32}
    {src2 : RmBcst} (h : runEvexD vl addr32 dst mask src1 src2 s = .next t) :
    t.mem = s.mem ∧ t.reads = (s.countRead (evexDAccess vl addr32 src2 s)).reads := by
  obtain ⟨-, rfl⟩ := (runEvexD_eq_next ..).1 h
  simp

theorem runEvexBW_mem_reads {w : Nat} {vl : VecLen} {addr32 : Bool} {dst : Fin 8} {mask : Option (Fin 8)}
    {src1 : Fin 32} {src2 : Rm 32} (h : runEvexBW w vl addr32 dst mask src1 src2 s = .next t) :
    t.mem = s.mem ∧ t.reads = (s.countRead (evexAccess vl addr32 src2 s)).reads := by
  obtain ⟨-, rfl⟩ := (runEvexBW_eq_next ..).1 h
  simp

/-- No write of an instruction reaches memory or the count of reads, by the family it belongs to. -/
theorem exec_mem_reads {i : Instr} (h : exec i s = .next t) :
    t.mem = s.mem ∧ t.reads = (s.countRead (i.access s)).reads := by
  cases i with
  | pcmpeqbMm | pcmpeqwMm | pcmpeqdMm => exact runMmx_mem_reads h
  | pcmpeqbXmm | pcmpeqwXmm | pcmpeqdXmm => exact runSse_mem_reads h
  | vpcmpeqbXmm | vpcmpeqwXmm | vpcmpeqdXmm => exact runVex_mem_reads (vl := .v128) h
  | vpcmpeqbYmm | vpcmpeqwYmm | vpcmpeqdYmm => exact runVex_mem_reads (vl := .v256) h
  | vpcmpeqdK128 | vpcmpeqdK256 | vpcmpeqdK512 => exact runEvexD_mem_reads h
  | vpcmpeqbK128 | vpcmpeqbK256 | vpcmpeqbK512 => exact runEvexBW_mem_reads (w := 8) h
  | vpcmpeqwK128 | vpcmpeqwK256 | vpcmpeqwK512 => exact runEvexBW_mem_reads (w := 16) h

end Families

end Sys2Proof.Machine

namespace Sys2Proof.Proofs

open Machine

/-- Settles O26: byte i of the little-endian number is the i-th byte read, for any number of bytes. -/
theorem memReadIsLittleEndian : Obligations.MemReadIsLittleEndian := by
  intro s a n i _ hi
  exact ⟨memRead_byte s a n i hi, fun h => readByte_of_default h _, fun h => readByte_of_otherWriters h _⟩

/-- Settles O28: each form's access is that of its operand, with the scale and the size of its family. -/
theorem eachFormAddressesItsOperand : Obligations.EachFormAddressesItsOperand := by
  intro s lp vp a32 d8 d v u k m
  refine ⟨?_, ?_, ?_, ?_, ?_, ?_, ?_, ?_⟩
  all_goals
    intro i hi
    refine addresses_of_access ?_
    fin_cases hi <;> rfl

/-- Settles O29: the registers, then the memory operands family by family. -/
theorem sourcesAreRegistersOrMemory : Obligations.SourcesAreRegistersOrMemory := by
  intro s lp vp a32 d8 d v u k m a
  have hregisters : ∀ vl : VecLen, ∀ r, s.readVec vl.bits r = s.zmm[r].extractLsb' 0 vl.bits :=
    fun vl r => readVec_eq_extractLsb' s (vecLen_bits_le vl) r
  refine ⟨⟨fun _ => rfl, fun _ => rfl, fun w r hw => readVec_eq_extractLsb' s hw r, rfl, fun _ => rfl, fun _ => rfl,
      fun r => hregisters .v128 (vreg r), fun vl => ⟨fun r => hregisters vl (vreg r), hregisters vl, hregisters vl⟩⟩,
    ?mmx, ?sse, ?vex128, ?vex256, ?evex128, ?evex256, ?evex512, evexDSource_of_access, evexDSource_of_access,
    evexDSource_of_access, ?broadcast⟩
  case mmx => intro i hi h; fin_cases hi <;> exact mmSource_of_access h
  case sse => intro i hi h; fin_cases hi <;> exact xmmSource_of_access h
  case vex128 => intro i hi h; fin_cases hi <;> exact vexSource_of_access (vl := .v128) h
  case vex256 => intro i hi h; fin_cases hi <;> exact vexSource_of_access (vl := .v256) h
  case evex128 => intro i hi h; fin_cases hi <;> exact evexSource_of_access (vl := .v128) h
  case evex256 => intro i hi h; fin_cases hi <;> exact evexSource_of_access (vl := .v256) h
  case evex512 => intro i hi h; fin_cases hi <;> exact evexSource_of_access (vl := .v512) h
  case broadcast => intro i hi h; fin_cases hi <;> exact evexDSource_of_broadcast h

/-- Settles O30: the table row by row, and the count of reads of a form that completes. -/
theorem operandSizesAreTheTables : Obligations.OperandSizesAreTheTables := by
  intro s lp vp a32 d8 d v u k m
  refine ⟨?_, ?_, ?_, ?_, ?_, fun r8 => ?_, fun r => ?_, fun r => ?_, fun i t h => ?reads⟩
  case reads => rw [(exec_mem_reads h).2, countRead_reads]
  all_goals intro i hi; fin_cases hi <;> rfl

/-- Settles O42: memory is the same, so every address reads the same. -/
theorem noInstructionWritesMemory : Obligations.NoInstructionWritesMemory := by
  intro i s t h
  have hmem : t.mem = s.mem := (exec_mem_reads h).1
  exact ⟨hmem, fun a => by rw [hmem]⟩

end Sys2Proof.Proofs
end

section
/-! Family 20_memory.md: how a form's memory operand stops it (O50 to O52, O54 to O57). The admission of a read is said case by
case, in the order of R46, and the checks before it once; each statement is then one case of that admission. -/

namespace Sys2Proof.Machine

/-! ### Ranges of addresses -/

theorem firstInaccessible_eq_none (s : State) (a n : Nat) :
    s.firstInaccessible a n = none ↔ ∀ j, j < n → s.byteAccessible (a + j) = true := by
  constructor
  · intro h j
    induction j using Nat.strong_induction_on with
    | _ j ih =>
      intro hj
      by_contra hn
      have hbefore : ∀ i, i < j → s.byteAccessible (a + i) = true := fun i hi => ih i hi (by omega)
      rw [firstInaccessible_eq_some s a n j hj hbefore (by simpa using hn)] at h
      cases h
  · intro h
    induction n generalizing a with
    | zero => rfl
    | succ n ih =>
      have htail : ∀ j, j < n → s.byteAccessible (a + 1 + j) = true := fun j hj => by
        rw [show a + 1 + j = a + (j + 1) by omega]
        exact h (j + 1) (by omega)
      have hhead : s.byteAccessible a = true := h 0 (by omega)
      simp [State.firstInaccessible, hhead, ih (a + 1) htail]

theorem canonicalRange_eq_false {la : LaBits} {a n j : Nat} (hj : j < n) (h : canonical la (a + j) = false) :
    canonicalRange la a n = false := by
  by_contra hn
  have hall := (canonicalRange_eq_true la a n).1 (by simpa using hn)
  simp [hall j hj] at h

theorem touchesDevice_eq_true {s : State} {a n j : Nat} (hj : j < n) (h : s.onDevice (a + j) = true) :
    s.touchesDevice a n = true := by
  by_contra hn
  have hall := (touchesDevice_eq_false s a n).1 (by simpa using hn)
  simp [hall j hj] at h

/-! ### Which alignment rule a class has (R44) -/

theorem alignRule_eq_fault16 (c : FormClass) : c.alignRule = .fault16 ↔ c = .sse2 := by
  cases c <;> simp [FormClass.alignRule]

theorem alignRule_eq_check (c : FormClass) : c.alignRule = .check ↔ c = .mmx := by
  cases c <;> simp [FormClass.alignRule]

theorem alignRule_eq_refuse (c : FormClass) : c.alignRule = .refuse ↔ c ≠ .mmx ∧ c ≠ .sse2 := by
  cases c <;> simp [FormClass.alignRule]

theorem alignmentRefused_some (c : FormClass) (a : Access) (s : State) :
    alignmentRefused c (some a) s = true ↔
      (c ≠ .mmx ∧ c ≠ .sse2) ∧ s.acChecking = true ∧ a.addr.toNat % a.bytes ≠ 0 := by
  simp [alignmentRefused, Access.misaligned, alignRule_eq_refuse, and_assoc]

/-- R44's refusal is not asked of a legacy form. -/
theorem alignmentRefused_of_legacy {c : FormClass} (h : c = .mmx ∨ c = .sse2) (acc : Option Access) (s : State) :
    alignmentRefused c acc s = false := by
  rcases h with rfl | rfl <;> rfl

/-! ### The admission of a read, case by case in the order of R46 -/

section Admission

variable {c : FormClass} {a : Access} {s : State}

theorem admitRead_of_not_multiple_of_16 (hc : c = .sse2) (h : a.addr.toNat % 16 ≠ 0) :
    admitRead c a s = raise .gp s :=
  if_pos ⟨(alignRule_eq_fault16 c).2 hc, h⟩

/-- Where R44's #GP(0) is not raised: the class has another rule, or the address is a multiple of 16. -/
theorem not_fault16 (h16 : c = .sse2 → a.addr.toNat % 16 = 0) :
    ¬ (c.alignRule = .fault16 ∧ a.addr.toNat % 16 ≠ 0) :=
  fun ⟨hrule, h⟩ => h (h16 ((alignRule_eq_fault16 c).1 hrule))

theorem not_nonCanonical (hcan : s.cfg.mode64 = true → ∀ n, n < a.bytes → canonical s.cfg.laBits (a.addr.toNat + n) = true) :
    ¬ (s.cfg.mode64 = true ∧ canonicalRange s.cfg.laBits a.addr.toNat a.bytes = false) := by
  rintro ⟨hmode, h⟩
  rw [(canonicalRange_eq_true _ _ _).2 (hcan hmode)] at h
  cases h

variable (h16 : c = .sse2 → a.addr.toNat % 16 = 0)

include h16

theorem admitRead_of_nonCanonical (hmode : s.cfg.mode64 = true) {j : Nat} (hj : j < a.bytes)
    (h : canonical s.cfg.laBits (a.addr.toNat + j) = false) :
    admitRead c a s = if a.ss then raise .ss s else raise .gp s := by
  rw [admitRead, if_neg (not_fault16 h16), if_pos ⟨hmode, canonicalRange_eq_false hj h⟩]

variable (hcan : s.cfg.mode64 = true → ∀ n, n < a.bytes → canonical s.cfg.laBits (a.addr.toNat + n) = true)

include hcan

theorem admitRead_of_onDevice {j : Nat} (hj : j < a.bytes) (h : s.onDevice (a.addr.toNat + j) = true) :
    admitRead c a s = .refused .deviceMemory := by
  rw [admitRead, if_neg (not_fault16 h16), if_neg (not_nonCanonical hcan), if_pos (touchesDevice_eq_true hj h)]

theorem admitRead_of_inaccessible (hdev : ∀ n, n < a.bytes → s.onDevice (a.addr.toNat + n) = false) {j : Nat}
    (hj : j < a.bytes) (hbefore : ∀ n, n < j → s.byteAccessible (a.addr.toNat + n) = true)
    (h : s.byteAccessible (a.addr.toNat + j) = false) :
    admitRead c a s = raise (.pf (BitVec.ofNat 64 (a.addr.toNat + j))) s := by
  have hnodev : s.touchesDevice a.addr.toNat a.bytes = false := (touchesDevice_eq_false _ _ _).2 hdev
  have hfirst : s.firstInaccessible a.addr.toNat a.bytes = some (a.addr.toNat + j) :=
    firstInaccessible_eq_some _ _ _ _ hj hbefore h
  rw [admitRead, if_neg (not_fault16 h16), if_neg (not_nonCanonical hcan)]
  simp [hnodev, hfirst]

theorem admitRead_of_accessible (hall : ∀ n, n < a.bytes → s.byteAccessible (a.addr.toNat + n) = true) :
    admitRead c a s = if c = .mmx ∧ s.acChecking ∧ a.misaligned then raise .ac s else .next () := by
  have hfirst : s.firstInaccessible a.addr.toNat a.bytes = none := (firstInaccessible_eq_none _ _ _).2 hall
  rw [admitRead, if_neg (not_fault16 h16), if_neg (not_nonCanonical hcan)]
  simp [touchesDevice_of_accessible _ _ _ hfirst, hfirst, alignRule_eq_check]

end Admission

/-! ### From the checks to the instruction (R107, R156) -/

/-- What the checks of an instruction answer when the value they give is set aside: whether and how it stops. -/
theorem exec_forget_eq_checkForm (i : Instr) (s : State) :
    andThen (exec i s) (fun _ => .next ()) = checkForm i.formClass i.len (i.access s) s := by
  obtain ⟨u, hu⟩ := exec_eq_checkForm i s
  rw [hu]
  cases checkForm i.formClass i.len (i.access s) s <;> rfl

theorem exec_eq_fault_of_checkForm {i : Instr} {s : State} {e : Fault}
    (h : checkForm i.formClass i.len (i.access s) s = .fault e) : exec i s = .fault e := by
  obtain ⟨u, hu⟩ := exec_eq_checkForm i s
  rw [hu, h, andThen_fault]

theorem exec_eq_refused_of_checkForm {i : Instr} {s : State} {r : Refusal}
    (h : checkForm i.formClass i.len (i.access s) s = .refused r) : exec i s = .refused r := by
  obtain ⟨u, hu⟩ := exec_eq_checkForm i s
  rw [hu, h, andThen_refused]

/-- A form that is not refused and may execute is left with the admission of its operand. -/
theorem checkForm_eq_admitOperand {c : FormClass} {len : Nat} {acc : Option Access} {s : State}
    (hfits : pcFits len s = true) (hrefused : alignmentRefused c acc s = false) (hallowed : formAllowed c s = true) :
    checkForm c len acc s = admitOperand c acc s := by
  have hrefusal : formRefusal c len acc s = none :=
    (formRefusal_eq_none _ _ _ _).2 ⟨by simpa [pcFits] using hfits, hrefused⟩
  simp only [formAllowed, Bool.and_eq_true, Bool.not_eq_true', Bool.or_eq_true, bne_iff_ne] at hallowed
  obtain ⟨⟨⟨hsupported, henabled⟩, hts⟩, hpending⟩ := hallowed
  have hmf : ¬ (c = .mmx ∧ s.cfg.x87Pending = true) := by
    rintro ⟨hc, hx⟩
    rcases hpending with h | h
    · exact h hc
    · simp [hx] at h
  unfold checkForm
  simp [hrefusal, hsupported, henabled, hts, hmf]

/-- An instruction that may execute stops as the admission of its memory operand does. -/
theorem exec_of_admitRead {i : Instr} {s : State} {a : Access} (hfits : pcFits i.len s = true)
    (hallowed : formAllowed i.formClass s = true) (hacc : i.access s = some a)
    (hrefused : alignmentRefused i.formClass (some a) s = false) :
    (∀ e, admitRead i.formClass a s = .fault e → exec i s = .fault e)
      ∧ ∀ r, admitRead i.formClass a s = .refused r → exec i s = .refused r := by
  have hcheck : checkForm i.formClass i.len (i.access s) s = admitRead i.formClass a s := by
    rw [checkForm_eq_admitOperand hfits (by rw [hacc]; exact hrefused) hallowed, hacc]
    rfl
  exact ⟨fun e he => exec_eq_fault_of_checkForm (hcheck.trans he),
    fun r hr => exec_eq_refused_of_checkForm (hcheck.trans hr)⟩

/-- The memory operand of an MMX form has 8 bytes (R42). -/
theorem access_bytes_of_mmx {i : Instr} {s : State} {a : Access} (hi : i.formClass = .mmx)
    (ha : i.access s = some a) : a.bytes = 8 := by
  have hmm : ∀ (p : LegacyPrefix) (src : Rm 8), mmAccess p src s = some a → a.bytes = 8 := by
    intro p src h
    cases src with
    | reg r => cases h
    | mem m => cases h; rfl
  cases i with
  | pcmpeqbMm | pcmpeqwMm | pcmpeqdMm => exact hmm _ _ ha
  | _ => cases hi

/-! ### The opmask registers take no part in the checks (R55) -/

theorem touchesDevice_with_k (s : State) (regs : Vector Opmask 8) (a n : Nat) :
    ({ s with k := regs } : State).touchesDevice a n = s.touchesDevice a n := by
  induction n generalizing a with
  | zero => rfl
  | succ n ih => exact congrArg (s.onDevice a || ·) (ih (a + 1))

theorem firstInaccessible_with_k (s : State) (regs : Vector Opmask 8) (a n : Nat) :
    ({ s with k := regs } : State).firstInaccessible a n = s.firstInaccessible a n := by
  induction n generalizing a with
  | zero => rfl
  | succ n ih => exact congrArg (fun rest => if s.byteAccessible a then rest else some a) (ih (a + 1))

theorem admitRead_with_k (c : FormClass) (a : Access) (s : State) (regs : Vector Opmask 8) :
    admitRead c a { s with k := regs } = admitRead c a s := by
  unfold admitRead
  rw [touchesDevice_with_k, firstInaccessible_with_k]
  rfl

theorem checkForm_with_k (c : FormClass) (len : Nat) (acc : Option Access) (s : State) (regs : Vector Opmask 8) :
    checkForm c len acc { s with k := regs } = checkForm c len acc s := by
  have hoperand : admitOperand c acc { s with k := regs } = admitOperand c acc s := by
    cases acc with
    | none => rfl
    | some a => exact admitRead_with_k c a s regs
  unfold checkForm
  rw [hoperand]
  rfl

theorem access_with_k (i : Instr) (s : State) (regs : Vector Opmask 8) : i.access { s with k := regs } = i.access s := by
  cases i <;> rfl

end Sys2Proof.Machine

namespace Sys2Proof.Proofs

open Machine

/-- Settles O50: the first question R46 asks is the alignment of a legacy SSE2 operand. -/
theorem misalignedSseOperandRaisesGp : Obligations.MisalignedSseOperandRaisesGp := by
  intro i s a hi hfits hallowed hacc hmis
  have hstop := exec_of_admitRead hfits (hi ▸ hallowed) hacc (alignmentRefused_of_legacy (.inr hi) _ _)
  exact hstop.1 _ (admitRead_of_not_multiple_of_16 hi hmis)

/-- Settles O51: the second is whether every byte is canonical. -/
theorem nonCanonicalOperandFaults : Obligations.NonCanonicalOperandFaults := by
  intro i s a hfits hallowed hacc hrefused h16 hmode j hj hnon
  have hstop := exec_of_admitRead hfits hallowed hacc hrefused
  have hread := admitRead_of_nonCanonical h16 hmode hj hnon
  cases hss : a.ss with
  | true => exact hstop.1 _ (by simpa [hss, raise] using hread)
  | false => exact hstop.1 _ (by simpa [hss, raise] using hread)

/-- Settles O52: the fourth is `Accessible`, of canonical bytes none of which is in device memory. -/
theorem inaccessibleOperandRaisesPf : Obligations.InaccessibleOperandRaisesPf := by
  intro i s a j hfits hallowed hacc _ hrefused h16 hcan hdev hj hbefore hna
  have hstop := exec_of_admitRead hfits hallowed hacc hrefused
  exact hstop.1 _ (admitRead_of_inaccessible h16 hcan hdev hj hbefore hna)

/-- Settles O54: the third is device memory, of canonical bytes. -/
theorem deviceOperandIsRefused : Obligations.DeviceOperandIsRefused := by
  intro i s a j hfits hallowed hacc hrefused h16 hcan hj hdev
  have hstop := exec_of_admitRead hfits hallowed hacc hrefused
  exact hstop.2 _ (admitRead_of_onDevice h16 hcan hj hdev)

/-- Settles O55: the last is the alignment of an MMX operand under alignment checking. -/
theorem misalignedMmxOperandRaisesAc : Obligations.MisalignedMmxOperandRaisesAc := by
  intro i s a hi hfits hallowed hacc hac hmis hcan haccessible
  have hstop := exec_of_admitRead hfits (hi ▸ hallowed) hacc (alignmentRefused_of_legacy (.inl hi) _ _)
  have hbytes : a.bytes = 8 := access_bytes_of_mmx hi hacc
  have hmisaligned : a.misaligned = true := by simpa [Access.misaligned, hbytes] using hmis
  have h16 : i.formClass = .sse2 → a.addr.toNat % 16 = 0 := by simp [hi]
  rw [← hbytes] at hcan haccessible
  have hread := admitRead_of_accessible (c := i.formClass) h16 hcan haccessible
  exact hstop.1 _ (hread.trans (if_pos ⟨hi, hac, hmisaligned⟩))

/-- Settles O56: R44's refusal stands before every exception, of a form that ends within the address space. -/
theorem misalignedVexOrEvexOperandIsRefused : Obligations.MisalignedVexOrEvexOperandIsRefused := by
  intro i s a hmmx hsse hfits hacc hac hmis
  have hrefused : alignmentRefused i.formClass (i.access s) s = true := by
    rw [hacc, alignmentRefused_some]
    exact ⟨⟨hmmx, hsse⟩, hac, hmis⟩
  have hrefusal : formRefusal i.formClass i.len (i.access s) s = some .alignmentCheckUnmodelled :=
    (formRefusal_eq_alignment _ _ _ _).2 ⟨by simpa [pcFits] using hfits, hrefused⟩
  exact exec_eq_refused_of_checkForm (by unfold checkForm; rw [hrefusal])

/-- Settles O57: an instruction stops as its checks do, and those see neither its writemask nor the opmask registers. -/
theorem writemaskSuppressesNoFault : Obligations.WritemaskSuppressesNoFault := by
  intro a32 dst m m' src1 d r s regs form hform
  have hclass : (form m).formClass = (form m').formClass ∧ (form m).len = (form m').len
      ∧ (form m).access s = (form m').access s := by
    fin_cases hform <;> exact ⟨rfl, rfl, rfl⟩
  obtain ⟨hc, hlen, hacc⟩ := hclass
  rw [exec_forget_eq_checkForm (form m) s, exec_forget_eq_checkForm (form m'), access_with_k _ s regs,
    checkForm_with_k _ _ _ s regs, hc, hlen, hacc]

end Sys2Proof.Proofs
end

section
/-! O10. Decoding what the encoder writes for a legacy form, with LOCK among its prefixes: the bit fields, the r/m operand,
the prefixes (only which of them are there matters, not their order), the REX byte, the shape. -/

namespace Sys2Proof

/-- The bits `x` and `b` extend the operand's index and base to their numbers (R67, R69, R71). -/
def MemOp.NamedBy (x b : Nat) : MemOp → Prop
  | .dispOnly _ => True
  | .base r _ => 8 * b + r.val % 8 = r.val
  | .sib r idx _ _ => 8 * b + r.val % 8 = r.val ∧ 8 * x + idx.val % 8 = idx.val
  | .sibNoBase idx _ _ => 8 * x + idx.val % 8 = idx.val

/-- The same of an r/m operand; `high` is what extends a register operand's number. -/
def Rm.NamedBy (high x b : Nat) {n : Nat} : Rm n → Prop
  | .reg r => high + r.val % 8 = r.val
  | .mem m => m.NamedBy x b

end Sys2Proof

namespace Sys2Proof.Laws

/-! ### Bit fields (R64, R65, R67) -/

/-- A byte written from its three fields gives them back. -/
theorem bits_fieldByte {hi mid lo : Nat} (hhi : hi < 4) (hmid : mid < 8) (hlo : lo < 8) :
    bits (fieldByte hi mid lo) 6 2 = hi ∧ bits (fieldByte hi mid lo) 3 3 = mid ∧ bits (fieldByte hi mid lo) 0 3 = lo := by
  simp only [bits, fieldByte, BitVec.toNat_ofNat]
  omega

/-! ### The displacement (R65) -/

theorem disp_mod_lt (d : Disp) : d.mod < 3 := by cases d <;> simp [Disp.mod]

theorem readD32_d32Bytes (d : BitVec 32) (tail : List Byte) : readD32 (d32Bytes d ++ tail) = some (d, tail) := by
  have hd : d.toNat < 2 ^ 32 := d.isLt
  have hvalue : d.toNat % 256 + 256 * (d.toNat / 256 % 256) + 65536 * (d.toNat / 65536 % 256)
      + 16777216 * (d.toNat / 16777216 % 256) = d.toNat := by omega
  simp [d32Bytes, readD32, hvalue]

theorem readDisp_bytes (d : Disp) (tail : List Byte) : readDisp d.mod (d.bytes ++ tail) = some (d, tail) := by
  cases d with
  | none => rfl
  | d8 d => rfl
  | d32 d => simp [readDisp, Disp.mod, Disp.bytes, readD32_d32Bytes]

/-! ### The r/m operand (R64, R65) -/

/-- A base whose low bits are 5 has a displacement, so its mod is not the 0 of an operand without a base (R65). -/
theorem not_baseless {d : Disp} {r : Nat} (h : r % 8 ≠ 5 ∨ d ≠ .none) : ¬ (d.mod = 0 ∧ r % 8 = 5) := by
  rintro ⟨hmod, h5⟩
  cases d <;> simp_all [Disp.mod]

theorem ofNat_eq_of_eq_val {n : Nat} [NeZero n] {v : Nat} {r : Fin n} (h : v = r.val) : Fin.ofNat n v = r := by
  rw [h]
  exact Fin.ofNat_val_eq_self r

/-- The bytes of a memory operand, read back: ModRM with a mod below 3 and the reg field, then the operand. -/
theorem readMem_bytes {m : MemOp} {ext : Bool} {reg x b : Nat} (hreg : reg < 8) (hwf : m.wellFormed ext = true)
    (hnamed : m.NamedBy x b) (tail : List Byte) :
    ∃ modrm rest, m.bytes reg = modrm :: rest ∧ bits modrm 6 2 < 3 ∧ bits modrm 3 3 = reg
      ∧ readMem (bits modrm 6 2) (bits modrm 0 3) x b (rest ++ tail) = some (m, tail) := by
  have hlow : ∀ r : Fin 16, r.val % 8 < 8 := fun r => Nat.mod_lt _ (by decide)
  cases m with
  | dispOnly d =>
    obtain ⟨hmod, hfield, hrm⟩ := bits_fieldByte (hi := 0) (lo := 5) (by decide) hreg (by decide)
    refine ⟨_, _, rfl, ?_⟩
    rw [hmod, hfield, hrm]
    simp [readMem, readD32_d32Bytes]
  | base r d =>
    simp only [MemOp.wellFormed, Bool.and_eq_true, Bool.or_eq_true, bne_iff_ne] at hwf
    obtain ⟨⟨hnosib, hdisp⟩, -⟩ := hwf
    obtain ⟨hmod, hfield, hrm⟩ := bits_fieldByte ((disp_mod_lt d).trans (by decide)) hreg (hlow r)
    refine ⟨_, _, rfl, ?_⟩
    rw [hmod, hfield, hrm]
    refine ⟨disp_mod_lt d, rfl, ?_⟩
    unfold readMem
    rw [if_neg hnosib, if_neg (not_baseless hdisp), readDisp_bytes, ofNat_eq_of_eq_val hnamed]
  | sib r idx scale d =>
    simp only [MemOp.wellFormed, Bool.and_eq_true, Bool.or_eq_true, bne_iff_ne] at hwf
    obtain ⟨⟨hdisp, -⟩, -⟩ := hwf
    obtain ⟨hbase, hidx⟩ := hnamed
    obtain ⟨hmod, hfield, hrm⟩ := bits_fieldByte (lo := 4) ((disp_mod_lt d).trans (by decide)) hreg (by decide)
    obtain ⟨hscale, hindex, hbaseField⟩ := bits_fieldByte scale.isLt (hlow idx) (hlow r)
    refine ⟨_, _, rfl, ?_⟩
    rw [hmod, hfield, hrm]
    refine ⟨disp_mod_lt d, rfl, ?_⟩
    simp only [readMem, List.cons_append, if_true]
    rw [hscale, hindex, hbaseField, if_neg (not_baseless hdisp), readDisp_bytes, ofNat_eq_of_eq_val hbase,
      ofNat_eq_of_eq_val hidx]
    simp
  | sibNoBase idx scale d =>
    obtain ⟨hmod, hfield, hrm⟩ := bits_fieldByte (hi := 0) (lo := 4) (by decide) hreg (by decide)
    obtain ⟨hscale, hindex, hbaseField⟩ := bits_fieldByte (lo := 5) scale.isLt (hlow idx) (by decide)
    refine ⟨_, _, rfl, ?_⟩
    rw [hmod, hfield, hrm]
    refine ⟨by decide, rfl, ?_⟩
    simp only [readMem, List.cons_append, if_true]
    rw [hscale, hindex, hbaseField, if_pos ⟨trivial, rfl⟩, readD32_d32Bytes, ofNat_eq_of_eq_val hnamed]
    simp

/-- The bytes of an r/m operand, read back: ModRM with the reg field, then the operand; mod is 3 of a register only. -/
theorem readRm_bytes {n : Nat} [NeZero n] {src : Rm n} {ext : Bool} {reg high x b : Nat} (hreg : reg < 8)
    (hwf : src.wellFormed ext = true) (hnamed : src.NamedBy high x b) (tail : List Byte) :
    ∃ modrm rest, src.bytes reg = modrm :: rest ∧ bits modrm 3 3 = reg
      ∧ (bits modrm 6 2 = 3 → ∃ r, src = .reg r)
      ∧ readRm n modrm (high + bits modrm 0 3) x b (rest ++ tail) = some (src, tail) := by
  cases src with
  | reg r =>
    obtain ⟨hmod, hfield, hrm⟩ := bits_fieldByte (hi := 3) (by decide) hreg (Nat.mod_lt r.val (by decide : 0 < 8))
    refine ⟨_, _, rfl, hfield, fun _ => ⟨r, rfl⟩, ?_⟩
    rw [readRm, hmod, hrm, if_pos rfl, ofNat_eq_of_eq_val hnamed]
    rfl
  | mem m =>
    obtain ⟨modrm, rest, hbytes, hmod, hfield, hread⟩ := readMem_bytes hreg hwf hnamed tail
    have hnoreg : bits modrm 6 2 ≠ 3 := Nat.ne_of_lt hmod
    refine ⟨modrm, rest, hbytes, hfield, fun h => absurd h hnoreg, ?_⟩
    rw [readRm, if_neg hnoreg, hread]

/-! ### Prefixes (R67, R68, R81) -/

theorem splitPrefixes_append {P rest : List Byte} (hP : ∀ b ∈ P, isPrefix b = true)
    (hrest : ∀ b ∈ rest.head?, isPrefix b = false) : splitPrefixes (P ++ rest) = (P, rest) := by
  induction P with
  | nil =>
    cases rest with
    | nil => rfl
    | cons b bs => simp [splitPrefixes, hrest b rfl]
  | cons b P ih =>
    have hb : isPrefix b = true := hP b (by simp)
    simp [splitPrefixes, hb, ih fun c hc => hP c (by simp [hc])]

theorem hasRepeat_eq_false (P : List Byte) : hasRepeat P = false ↔ P.Nodup := by
  induction P with
  | nil => simp [hasRepeat]
  | cons b P ih => simp [hasRepeat, ih]

theorem hasRepeat_perm {P Q : List Byte} (h : P.Perm Q) : hasRepeat P = hasRepeat Q := by
  rw [Bool.eq_iff_iff, ← not_iff_not]
  simp only [Bool.not_eq_true, hasRepeat_eq_false]
  exact h.nodup_iff

/-- The refusals of the legacy shape do not depend on the order of the prefixes. -/
theorem legacyRefusals_perm {P Q : List Byte} (h : P.Perm Q) (mode64 : Bool) (rexBits : Byte) :
    legacyRefusals mode64 P rexBits = legacyRefusals mode64 Q rexBits := by
  simp only [legacyRefusals, hasSegment, h.contains_eq, hasRepeat_perm h]

/-- LOCK and the prefixes of a legacy form; `row66` says whether 0x66 selects its row. -/
def lockedPrefixes (addr32 row66 : Bool) : List Byte := 0xF0 :: (addrPrefix addr32 ++ if row66 then [0x66] else [])

theorem isPrefix_lockedPrefixes (addr32 row66 : Bool) : ∀ b ∈ lockedPrefixes addr32 row66, isPrefix b = true := by
  cases addr32 <;> cases row66 <;> decide

theorem contains_lockedPrefixes (addr32 row66 : Bool) :
    (lockedPrefixes addr32 row66).contains 0xF0 = true ∧ (lockedPrefixes addr32 row66).contains 0x67 = addr32
      ∧ (lockedPrefixes addr32 row66).contains 0x66 = row66 := by
  cases addr32 <;> cases row66 <;> decide

/-- LOCK is none of the prefixes that are refused: with 0x67 in 64-bit mode only and a REX byte that the form admits, nothing
is. -/
theorem firstRefusal_lockedPrefixes {mode64 addr32 row66 : Bool} {rexBits : Byte} (haddr : addr32 = true → mode64 = true)
    (hw : bits rexBits 3 1 = 0) (hr : row66 = false → bits rexBits 2 1 = 0) :
    firstRefusal (legacyRefusals mode64 (lockedPrefixes addr32 row66) rexBits) = none := by
  have hprefixes : ∀ b ∈ ([0xF2, 0xF3, 0x2E, 0x36, 0x3E, 0x26, 0x64, 0x65] : List Byte),
      (lockedPrefixes addr32 row66).contains b = false := by
    cases addr32 <;> cases row66 <;> decide
  have hrepeat : hasRepeat (lockedPrefixes addr32 row66) = false := by
    cases addr32 <;> cases row66 <;> decide
  obtain ⟨-, h67, h66⟩ := contains_lockedPrefixes addr32 row66
  have h16 : (addr32 && !mode64) = false := by
    cases addr32 with
    | false => rfl
    | true => simp [haddr rfl]
  have hmm : (!row66 && bits rexBits 2 1 == 1) = false := by
    cases row66 with
    | true => rfl
    | false => simp [hr rfl]
  simp only [List.forall_mem_cons] at hprefixes
  obtain ⟨hF2, hF3, h2E, h36, h3E, h26, h64, h65, -⟩ := hprefixes
  simp only [legacyRefusals, hasSegment, hF2, hF3, h2E, h36, h3E, h26, h64, h65, hrepeat, h67, h66, h16, hmm, hw]
  rfl

/-! ### The REX byte (R67, R81) -/

/-- The REX byte of a legacy form, if it has one. -/
def rexField (rex : Bool) (dst x b : Nat) : Option Byte :=
  if rex then some (BitVec.ofNat 8 (0x40 + 4 * (dst / 8) + 2 * x + b)) else none

theorem legacyBody_eq (e : Elem) (rex : Bool) (dst : Nat) {n : Nat} (src : Rm n) (x b : Nat) :
    legacyBody e rex dst src x b = (rexField rex dst x b).toList ++ 0x0F :: e.opcode :: src.bytes (dst % 8) := by
  cases rex <;> rfl

/-- What decoding reads from the REX byte: W = 0, R, X and B; without one all are 0. -/
theorem bits_rexField {rex : Bool} {dst x b : Nat} (hdst : dst < 16) (hx : x < 2) (hb : b < 2)
    (hlow : rex = false → dst < 8) :
    bits ((rexField rex dst x b).getD 0) 3 1 = 0 ∧ bits ((rexField rex dst x b).getD 0) 2 1 = dst / 8
      ∧ bits ((rexField rex dst x b).getD 0) 1 1 = (if rex then x else 0)
      ∧ bits ((rexField rex dst x b).getD 0) 0 1 = (if rex then b else 0) := by
  cases rex with
  | false =>
    have h0 : dst / 8 = 0 := Nat.div_eq_of_lt (hlow rfl)
    simp [rexField, bits, h0]
  | true =>
    simp only [rexField, if_true, Option.getD_some, bits, BitVec.toNat_ofNat]
    omega

/-- A byte 40 to 4F is none of the legacy prefixes. -/
theorem isPrefix_of_rex {b : Byte} (h : bits b 4 4 = 4) : isPrefix b = false := by
  by_contra hb
  simp only [Bool.not_eq_false, isPrefix, Bool.or_eq_true, beq_iff_eq] at hb
  rcases hb with (((((((((rfl | rfl) | rfl) | rfl) | rfl) | rfl) | rfl) | rfl) | rfl) | rfl) | rfl <;>
    exact absurd h (by decide)

section Rex

variable {rex : Bool} {dst x b : Nat} (hdst : dst < 16) (hx : x < 2) (hb : b < 2)

include hdst hx hb

/-- The REX byte is one. -/
theorem bits_of_mem_rexField {c : Byte} (hc : c ∈ rexField rex dst x b) : bits c 4 4 = 4 := by
  cases rex with
  | false => cases hc
  | true =>
    cases hc
    simp only [bits, BitVec.toNat_ofNat]
    omega

/-- The first byte after the legacy prefixes is none of them. -/
theorem isPrefix_head_rexField (rest : List Byte) :
    ∀ c ∈ ((rexField rex dst x b).toList ++ 0x0F :: rest).head?, isPrefix c = false := by
  intro c hc
  cases hrex : rexField rex dst x b with
  | none =>
    rw [hrex] at hc
    cases hc
    rfl
  | some r =>
    rw [hrex] at hc
    cases hc
    exact isPrefix_of_rex (bits_of_mem_rexField hdst hx hb hrex)

theorem splitRex_rexField {mode64 : Bool} (hmode : rex = true → mode64 = true) (rest : List Byte) :
    splitRex mode64 ((rexField rex dst x b).toList ++ 0x0F :: rest) = (rexField rex dst x b, 0x0F :: rest) := by
  cases hrex : rexField rex dst x b with
  | none =>
    have hesc : ¬ (mode64 && bits (0x0F : Byte) 4 4 == 4) = true := by cases mode64 <;> decide
    exact if_neg hesc
  | some r =>
    have hr : bits r 4 4 = 4 := bits_of_mem_rexField hdst hx hb hrex
    have hmode64 : mode64 = true := by
      cases rex with
      | true => exact hmode rfl
      | false => cases hrex
    simp [splitRex, hr, hmode64]

end Rex

/-! ### Which extension bits may stand with an r/m operand (R65, R67, D19) -/

theorem mem_bitChoices_iff (free : Bool) (bit v : Nat) :
    v ∈ bitChoices free bit ↔ (free = true ∧ v < 2) ∨ (free = false ∧ v = bit) := by
  cases free with
  | false => simp [bitChoices]
  | true => simp [bitChoices]; omega

theorem mem_extBits_iff (mode64 : Bool) {n : Nat} (src : Rm n) (x b : Nat) :
    (x, b) ∈ src.extBits mode64 ↔
      x ∈ bitChoices (mode64 && !src.usesX) src.xBit ∧ b ∈ bitChoices (mode64 && !src.usesB) src.bBit := by
  simp [Rm.extBits]

/-- A bit that is read is not free. -/
theorem eq_of_mem_bitChoices {uses : Bool} {bit v : Nat} (huses : uses = true) (h : v ∈ bitChoices (true && !uses) bit) :
    v = bit := by
  subst huses
  exact List.mem_singleton.1 h

theorem named_of_eq_div {v r : Nat} (h : v = r / 8) : 8 * v + r % 8 = r := h ▸ Nat.div_add_mod r 8

section ExtBits

variable {n : Nat} {src : Rm n}

/-- A register below 8 is named without extension bits. -/
theorem named_zero_of_regOk {r : Nat} (h : regOk false r = true) : 8 * 0 + r % 8 = r := by
  simp only [regOk, Bool.or_false, decide_eq_true_eq] at h
  omega

/-- Without a REX byte the registers are below 8, and bits that are 0 name them. -/
theorem namedBy_zero (hwf : src.wellFormed false = true) : src.NamedBy 0 0 0 := by
  cases src with
  | reg r => exact named_zero_of_regOk hwf
  | mem m =>
    cases m with
    | dispOnly d => trivial
    | base r d => exact named_zero_of_regOk (Bool.and_eq_true_iff.1 hwf).2
    | sib r idx scale d =>
      obtain ⟨hleft, hidx⟩ := Bool.and_eq_true_iff.1 hwf
      exact ⟨named_zero_of_regOk (Bool.and_eq_true_iff.1 hleft).2, named_zero_of_regOk hidx⟩
    | sibNoBase idx scale d => exact named_zero_of_regOk hwf

variable (hn : n ≤ 16)

include hn

theorem rm_xBit_bBit_lt : src.xBit < 2 ∧ src.bBit < 2 := by
  cases src with
  | reg r =>
    simp only [Rm.xBit, Rm.bBit]
    omega
  | mem m =>
    have hbit : ∀ r : Fin 16, r.val / 8 < 2 := fun r => Nat.div_lt_of_lt_mul r.isLt
    cases m with
    | dispOnly d => exact ⟨Nat.zero_lt_two, Nat.zero_lt_two⟩
    | base r d => exact ⟨Nat.zero_lt_two, hbit r⟩
    | sib r idx scale d => exact ⟨hbit idx, hbit r⟩
    | sibNoBase idx scale d => exact ⟨hbit idx, Nat.zero_lt_two⟩

theorem extBits_lt {mode64 : Bool} {x b : Nat} (h : (x, b) ∈ src.extBits mode64) : x < 2 ∧ b < 2 := by
  obtain ⟨hx, hb⟩ := (mem_extBits_iff ..).1 h
  rw [mem_bitChoices_iff] at hx hb
  have hlt := rm_xBit_bBit_lt (src := src) hn
  omega

/-- In 64-bit mode the bits of every spelling name the registers: those that are read are the operand's own. -/
theorem namedBy_of_extBits {x b : Nat} (h : (x, b) ∈ src.extBits true) : src.NamedBy (8 * b) x b := by
  obtain ⟨hx, hb⟩ := (mem_extBits_iff ..).1 h
  cases src with
  | reg r =>
    have hown : b = r.val / 8 % 2 := eq_of_mem_bitChoices rfl hb
    show 8 * b + r.val % 8 = r.val
    omega
  | mem m =>
    cases m with
    | dispOnly d => trivial
    | base r d => exact named_of_eq_div (eq_of_mem_bitChoices rfl hb)
    | sib r idx scale d =>
      exact ⟨named_of_eq_div (eq_of_mem_bitChoices rfl hb), named_of_eq_div (eq_of_mem_bitChoices rfl hx)⟩
    | sibNoBase idx scale d => exact named_of_eq_div (eq_of_mem_bitChoices rfl hx)

/-- The X and B bits that a legacy form's decoding reads name the registers of its r/m operand. -/
theorem namedBy_rexField {mode64 rex : Bool} {x b : Nat} (hmode : rex = true → mode64 = true)
    (hwf : src.wellFormed rex = true) (h : (x, b) ∈ src.extBits mode64) :
    src.NamedBy (8 * if rex then b else 0) (if rex then x else 0) (if rex then b else 0) := by
  cases rex with
  | false => exact namedBy_zero hwf
  | true =>
    rw [hmode rfl] at h
    exact namedBy_of_extBits hn h

end ExtBits

/-! ### The legacy shape (R68) -/

theorem elemOf_opcode (e : Elem) : elemOf e.opcode = some e := by cases e <;> rfl

/-- Bytes of the legacy shape that nothing before ModRM refuses. -/
theorem decodeShape_legacy {mode64 : Bool} {P : List Byte} {rex : Option Byte} (e : Elem) (modrm : Byte) (bs : List Byte)
    (h : firstRefusal (legacyRefusals mode64 P (rex.getD 0)) = none) :
    decodeShape mode64 P rex (0x0F :: e.opcode :: modrm :: bs)
      = decodeLegacyOperands P rex.isSome (rex.getD 0) e modrm bs := by
  show decodeLegacy mode64 P rex (e.opcode :: modrm :: bs) = _
  simp only [decodeLegacy, elemOf_opcode, h]

section Operands

variable {P : List Byte} {rexBits modrm : Byte} {bs rest : List Byte} (rex : Bool) (e : Elem)
  (hlock : P.contains 0xF0 = true)

include hlock

theorem decodeLegacyOperands_xmm_locked {src : Rm 16} (h66 : P.contains 0x66 = true)
    (hread : readRm 16 modrm (8 * bits rexBits 0 1 + bits modrm 0 3) (bits rexBits 1 1) (bits rexBits 0 1) bs
      = some (src, rest)) :
    decodeLegacyOperands P rex rexBits e modrm bs
      = .ud (xmmInstr e ⟨P.contains 0x67, rex⟩ (Fin.ofNat 16 (8 * bits rexBits 2 1 + bits modrm 3 3)) src) 1 := by
  simp only [decodeLegacyOperands, h66, hlock, hread, if_true]

theorem decodeLegacyOperands_mm_locked {src : Rm 8} (h66 : P.contains 0x66 = false)
    (hrex : ¬ (bits modrm 6 2 = 3 ∧ bits rexBits 0 1 = 1))
    (hread : readRm 8 modrm (bits modrm 0 3) (bits rexBits 1 1) (bits rexBits 0 1) bs = some (src, rest)) :
    decodeLegacyOperands P rex rexBits e modrm bs
      = .ud (mmInstr e ⟨P.contains 0x67, rex⟩ (Fin.ofNat 8 (bits modrm 3 3)) src) 1 := by
  simp only [decodeLegacyOperands, h66, hlock, hread, hrex, if_true, if_false, Bool.false_eq_true]

end Operands

/-- From the shape to the decoder: prefixes, a legacy form's bytes from its REX byte on, and what follows. -/
theorem decode_legacyBody_of_ud {mode64 rex : Bool} {e : Elem} {dst n x b extra : Nat} {src : Rm n} {P tail : List Byte}
    {i : Instr} (hdst : dst < 16) (hx : x < 2) (hb : b < 2) (hmode : rex = true → mode64 = true)
    (hP : ∀ c ∈ P, isPrefix c = true) (hlen : i.len + extra ≤ 15)
    (hshape : decodeShape mode64 P (rexField rex dst x b) (0x0F :: e.opcode :: (src.bytes (dst % 8) ++ tail))
      = .ud i extra) :
    decode mode64 (P ++ legacyBody e rex dst src x b ++ tail) = .ud i extra := by
  have hbytes : P ++ legacyBody e rex dst src x b ++ tail
      = P ++ ((rexField rex dst x b).toList ++ 0x0F :: e.opcode :: (src.bytes (dst % 8) ++ tail)) := by
    simp [legacyBody_eq]
  unfold decode
  rw [hbytes, splitPrefixes_append hP (isPrefix_head_rexField hdst hx hb _)]
  simp only [splitRex_rexField hdst hx hb hmode, hshape, if_neg (Nat.not_lt.2 hlen)]

/-! ### The legacy forms -/

theorem legacyWellFormed_iff (mode64 : Bool) (p : LegacyPrefix) (dst : Nat) {n : Nat} (src : Rm n) :
    legacyWellFormed mode64 p dst src = true ↔
      (p.addr32 = true → mode64 = true) ∧ (p.rex = true → mode64 = true) ∧ (p.rex = false → dst < 8)
        ∧ src.wellFormed p.rex = true := by
  cases h32 : p.addr32 <;> cases hrex : p.rex <;> cases mode64 <;> simp [legacyWellFormed, regOk, h32, hrex]

theorem memOp_len_le (m : MemOp) : m.len ≤ 5 := by
  have hd : ∀ d : Disp, d.len ≤ 4 := fun d => by cases d <;> simp [Disp.len]
  cases m with
  | dispOnly _ => exact (by decide : 4 ≤ 5)
  | base _ d => exact (hd d).trans (by decide)
  | sib _ _ _ d => exact Nat.add_le_add_left (hd d) 1
  | sibNoBase _ _ _ => exact Nat.le_refl 5

theorem rm_len_le {n : Nat} (src : Rm n) : src.len ≤ 5 := by
  cases src with
  | reg _ => exact Nat.zero_le 5
  | mem m => exact memOp_len_le m

theorem mmLen_le (p : LegacyPrefix) (src : Rm 8) : mmLen p src ≤ 10 := by
  have h32 := Bool.toNat_le p.addr32
  have hrex := Bool.toNat_le p.rex
  have hsrc := rm_len_le src
  unfold mmLen
  omega

theorem xmmLen_le (p : LegacyPrefix) (src : Rm 16) : xmmLen p src ≤ 11 := by
  have h32 := Bool.toNat_le p.addr32
  have hrex := Bool.toNat_le p.rex
  have hsrc := rm_len_le src
  unfold xmmLen
  omega

/-- What decides the decoding of the prefixes of a legacy form with LOCK, in any order. -/
theorem lockedPrefixes_perm {P : List Byte} {addr32 row66 : Bool} (hP : P.Perm (lockedPrefixes addr32 row66)) :
    (∀ c ∈ P, isPrefix c = true) ∧ P.contains 0xF0 = true ∧ P.contains 0x67 = addr32 ∧ P.contains 0x66 = row66 := by
  simp only [hP.contains_eq]
  exact ⟨fun c hc => isPrefix_lockedPrefixes addr32 row66 c (hP.mem_iff.1 hc), contains_lockedPrefixes addr32 row66⟩

section Locked

variable {mode64 row66 : Bool} {e : Elem} {p : LegacyPrefix} {dst n x b : Nat} {src : Rm n} {P : List Byte} (hn : n ≤ 16)
  (hdst : dst < 16) (hwf : legacyWellFormed mode64 p dst src = true) (hxb : (x, b) ∈ src.extBits mode64)

include hn hdst hwf hxb

/-- The bits that decoding reads from the REX byte of a spelling, or from its absence: W = 0, R extends the destination's
number, X and B name the registers of the r/m operand. -/
theorem bits_rexField_of_spelling :
    bits ((rexField p.rex dst x b).getD 0) 3 1 = 0 ∧ bits ((rexField p.rex dst x b).getD 0) 2 1 = dst / 8
      ∧ src.NamedBy (8 * bits ((rexField p.rex dst x b).getD 0) 0 1) (bits ((rexField p.rex dst x b).getD 0) 1 1)
        (bits ((rexField p.rex dst x b).getD 0) 0 1) := by
  obtain ⟨-, hmode, hlow, hsrc⟩ := (legacyWellFormed_iff ..).1 hwf
  obtain ⟨hx, hb⟩ := extBits_lt hn hxb
  obtain ⟨hw, hr, hxbit, hbbit⟩ := bits_rexField hdst hx hb hlow
  rw [hxbit, hbbit]
  exact ⟨hw, hr, namedBy_rexField hn hmode hsrc hxb⟩

/-- LOCK with a legacy form comes down to what follows the opcode: nothing before ModRM is refused. -/
theorem decode_locked_of_operands {i : Instr} {modrm : Byte} {rest tail : List Byte} (hmm : row66 = false → dst < 8)
    (hP : P.Perm (lockedPrefixes p.addr32 row66)) (hlen : i.len ≤ 14) (hbytes : src.bytes (dst % 8) = modrm :: rest)
    (hoperands : decodeLegacyOperands P p.rex ((rexField p.rex dst x b).getD 0) e modrm (rest ++ tail) = .ud i 1) :
    decode mode64 (P ++ legacyBody e p.rex dst src x b ++ tail) = .ud i 1 := by
  obtain ⟨haddr, hmode, -, -⟩ := (legacyWellFormed_iff ..).1 hwf
  obtain ⟨hx, hb⟩ := extBits_lt hn hxb
  obtain ⟨hw, hr, -⟩ := bits_rexField_of_spelling hn hdst hwf hxb
  obtain ⟨hprefix, -⟩ := lockedPrefixes_perm hP
  have hadmitted : firstRefusal (legacyRefusals mode64 P ((rexField p.rex dst x b).getD 0)) = none := by
    rw [legacyRefusals_perm hP]
    exact firstRefusal_lockedPrefixes haddr hw fun h66 => hr.trans (Nat.div_eq_of_lt (hmm h66))
  have hsome : (rexField p.rex dst x b).isSome = p.rex := by cases p.rex <;> rfl
  refine decode_legacyBody_of_ud hdst hx hb hmode hprefix (Nat.succ_le_succ hlen) ?_
  rw [hbytes, List.cons_append, decodeShape_legacy e modrm _ hadmitted, hsome, hoperands]

end Locked

/-- A register of a file of eight needs no bit beyond ModRM's. -/
theorem namedBy_of_eight {src : Rm 8} {high x b : Nat} (h : src.NamedBy high x b) : src.NamedBy 0 x b := by
  cases src with
  | reg r => exact (Nat.zero_add _).trans (Nat.mod_eq_of_lt r.isLt)
  | mem m => exact h

/-- LOCK with an MMX form in any of its spellings. -/
theorem decode_locked_mm {mode64 : Bool} {e : Elem} {p : LegacyPrefix} {dst : Fin 8} {src : Rm 8} {x b : Nat}
    {P : List Byte} (tail : List Byte) (hwf : legacyWellFormed mode64 p dst src = true)
    (hP : P.Perm (lockedPrefixes p.addr32 false)) (hxb : (x, b) ∈ src.extBits mode64) :
    decode mode64 (P ++ legacyBody e p.rex dst src x b ++ tail) = .ud (mmInstr e p dst src) 1 := by
  have hdst : dst.val < 8 := dst.isLt
  obtain ⟨-, -, -, hsrc⟩ := (legacyWellFormed_iff ..).1 hwf
  obtain ⟨-, -, hnamed⟩ := bits_rexField_of_spelling (by decide) (hdst.trans (by decide)) hwf hxb
  obtain ⟨-, hF0, h67, h66⟩ := lockedPrefixes_perm hP
  obtain ⟨modrm, rest, hbytes, hfield, hmod, hread⟩ :=
    readRm_bytes (Nat.mod_lt dst.val (by decide : 0 < 8)) hsrc (namedBy_of_eight hnamed) tail
  rw [Nat.zero_add] at hread
  have hrexOk : ¬ (bits modrm 6 2 = 3 ∧ bits ((rexField p.rex dst x b).getD 0) 0 1 = 1) := by
    rintro ⟨h3, hB⟩
    obtain ⟨r, rfl⟩ := hmod h3
    have hr : 8 * bits ((rexField p.rex dst x b).getD 0) 0 1 + r.val % 8 = r.val := hnamed
    omega
  have hreg : Fin.ofNat 8 (bits modrm 3 3) = dst := ofNat_eq_of_eq_val (hfield.trans (Nat.mod_eq_of_lt hdst))
  have hlen : (mmInstr e p dst src).len ≤ 14 := by
    cases e <;> exact (mmLen_le p src).trans (by decide)
  refine decode_locked_of_operands (by decide) (hdst.trans (by decide)) hwf hxb (fun _ => hdst) hP hlen hbytes ?_
  rw [decodeLegacyOperands_mm_locked p.rex e hF0 h66 hrexOk hread, h67, hreg]

/-- LOCK with a legacy SSE2 form in any of its spellings. -/
theorem decode_locked_xmm {mode64 : Bool} {e : Elem} {p : LegacyPrefix} {dst : Fin 16} {src : Rm 16} {x b : Nat}
    {P : List Byte} (tail : List Byte) (hwf : legacyWellFormed mode64 p dst src = true)
    (hP : P.Perm (lockedPrefixes p.addr32 true)) (hxb : (x, b) ∈ src.extBits mode64) :
    decode mode64 (P ++ legacyBody e p.rex dst src x b ++ tail) = .ud (xmmInstr e p dst src) 1 := by
  obtain ⟨-, -, -, hsrc⟩ := (legacyWellFormed_iff ..).1 hwf
  obtain ⟨-, hr, hnamed⟩ := bits_rexField_of_spelling (by decide) dst.isLt hwf hxb
  obtain ⟨-, hF0, h67, h66⟩ := lockedPrefixes_perm hP
  obtain ⟨modrm, rest, hbytes, hfield, -, hread⟩ :=
    readRm_bytes (Nat.mod_lt dst.val (by decide : 0 < 8)) hsrc hnamed tail
  have hreg : Fin.ofNat 16 (8 * bits ((rexField p.rex dst x b).getD 0) 2 1 + bits modrm 3 3) = dst :=
    ofNat_eq_of_eq_val (by rw [hr, hfield]; exact Nat.div_add_mod _ _)
  have hlen : (xmmInstr e p dst src).len ≤ 14 := by
    cases e <;> exact (xmmLen_le p src).trans (by decide)
  refine decode_locked_of_operands (row66 := true) (by decide) dst.isLt hwf hxb nofun hP hlen hbytes ?_
  rw [decodeLegacyOperands_xmm_locked p.rex e hF0 h66 hread, h67, hreg]

end Sys2Proof.Laws

namespace Sys2Proof.Proofs

open Machine Laws

theorem exists_mmInstr {i : Instr} (h : i.formClass = .mmx) : ∃ e p dst src, i = mmInstr e p dst src := by
  cases i with
  | pcmpeqbMm p dst src => exact ⟨.byte, p, dst, src, rfl⟩
  | pcmpeqwMm p dst src => exact ⟨.word, p, dst, src, rfl⟩
  | pcmpeqdMm p dst src => exact ⟨.dword, p, dst, src, rfl⟩
  | _ => cases h

theorem exists_xmmInstr {i : Instr} (h : i.formClass = .sse2) : ∃ e p dst src, i = xmmInstr e p dst src := by
  cases i with
  | pcmpeqbXmm p dst src => exact ⟨.byte, p, dst, src, rfl⟩
  | pcmpeqwXmm p dst src => exact ⟨.word, p, dst, src, rfl⟩
  | pcmpeqdXmm p dst src => exact ⟨.dword, p, dst, src, rfl⟩
  | _ => cases h

/-- Settles O10: the spellings of a legacy form, first the MMX forms, then those that 0x66 selects. -/
theorem lockedLegacyFormIsUd : Obligations.LockedLegacyFormIsUd := by
  intro mode64 i P body tail hwf hclass hP hbody
  rcases hclass with hmm | hxmm
  · obtain ⟨e, p, dst, src, rfl⟩ := exists_mmInstr hmm
    replace hwf : legacyWellFormed mode64 p dst src = true := by cases e <;> exact hwf
    replace hP : P.Perm (lockedPrefixes p.addr32 false) := by cases e <;> exact hP
    replace hbody : body ∈ legacyBodies mode64 e p dst.val src := by cases e <;> exact hbody
    obtain ⟨⟨x, b⟩, hxb, rfl⟩ := List.mem_map.1 hbody
    exact decode_locked_mm tail hwf hP hxb
  · obtain ⟨e, p, dst, src, rfl⟩ := exists_xmmInstr hxmm
    replace hwf : legacyWellFormed mode64 p dst src = true := by cases e <;> exact hwf
    replace hP : P.Perm (lockedPrefixes p.addr32 true) := by cases e <;> exact hP
    replace hbody : body ∈ legacyBodies mode64 e p dst.val src := by cases e <;> exact hbody
    obtain ⟨⟨x, b⟩, hxb, rfl⟩ := List.mem_map.1 hbody
    exact decode_locked_xmm tail hwf hP hxb

end Sys2Proof.Proofs
end

section
/-! The frame of the decode procedure (R81, R78): the legacy prefixes, the REX byte and the rest of a list of bytes; the
limit of 15 bytes, which decoding lays on the verdict of the shape. -/

namespace Sys2Proof

/-- The verdict of the shape on `n` bytes under the limit of 15 (R78): no instruction is longer, so bytes that miss one at 15
are refused; what raises #UD can be longer. -/
def Decoded.limited (n : Nat) : Decoded → Decoded
  | .more next => if 15 ≤ n then .refuse .tooLong else .more next
  | .ud i extra => if 15 < i.len + extra then .refuse .tooLong else .ud i extra
  | .instr i rest => .instr i rest
  | .refuse r => .refuse r

/-- The prefixes `P`, the REX byte `rex` and `rest` are what R81 steps 1 and 2 cut their concatenation into. -/
structure Splits (mode64 : Bool) (P : List Byte) (rex : Option Byte) (rest : List Byte) : Prop where
  prefixes : ∀ b ∈ P, isPrefix b = true
  rexByte : ∀ b ∈ rex, mode64 = true ∧ bits b 4 4 = 4
  head : rex = none → ∀ b ∈ rest.head?, isPrefix b = false ∧ (mode64 && bits b 4 4 == 4) = false

end Sys2Proof

namespace Sys2Proof.Laws

section Limited

variable {n : Nat} {d : Decoded}

theorem limited_eq_instr {i : Instr} {rest : List Byte} : d.limited n = .instr i rest ↔ d = .instr i rest := by
  cases d with
  | instr i rest => simp [Decoded.limited]
  | ud i extra => simp only [Decoded.limited]; split <;> simp
  | refuse r => simp [Decoded.limited]
  | more next => simp only [Decoded.limited]; split <;> simp

theorem limited_eq_ud {i : Instr} {extra : Nat} : d.limited n = .ud i extra ↔ d = .ud i extra ∧ i.len + extra ≤ 15 := by
  cases d with
  | instr i rest => simp [Decoded.limited]
  | ud j m =>
    simp only [Decoded.limited, Decoded.ud.injEq]
    split
    · simp only [reduceCtorEq, false_iff, not_and]
      rintro ⟨rfl, rfl⟩
      omega
    · simp only [Decoded.ud.injEq, iff_self_and]
      rintro ⟨rfl, rfl⟩
      omega
  | refuse r => simp [Decoded.limited]
  | more next => simp only [Decoded.limited]; split <;> simp

theorem limited_eq_more {next : Missing} : d.limited n = .more next ↔ d = .more next ∧ n < 15 := by
  cases d with
  | instr i rest => simp [Decoded.limited]
  | ud i extra => simp only [Decoded.limited]; split <;> simp
  | refuse r => simp [Decoded.limited]
  | more m => simp only [Decoded.limited]; split <;> simp <;> omega

end Limited

/-! ### Cutting the bytes (R81 steps 1 and 2) -/

theorem splitRex_toList {mode64 : Bool} {rex : Option Byte} {rest : List Byte}
    (hrex : ∀ b ∈ rex, mode64 = true ∧ bits b 4 4 = 4)
    (hhead : rex = none → ∀ b ∈ rest.head?, (mode64 && bits b 4 4 == 4) = false) :
    splitRex mode64 (rex.toList ++ rest) = (rex, rest) := by
  cases rex with
  | some b => simp [splitRex, hrex b rfl]
  | none =>
    cases rest with
    | nil => rfl
    | cons b bs => simp [splitRex, hhead rfl b rfl]

theorem isPrefix_head_of_splits {mode64 : Bool} {P rest : List Byte} {rex : Option Byte} (h : Splits mode64 P rex rest) :
    ∀ b ∈ (rex.toList ++ rest).head?, isPrefix b = false := by
  intro b hb
  cases rex with
  | some c =>
    cases hb
    exact isPrefix_of_rex (h.rexByte _ rfl).2
  | none => exact (h.head rfl b hb).1

/-- Decoding is the verdict of the shape, on what R81 steps 1 and 2 cut off, under the limit of 15 bytes. -/
theorem decode_of_splits {mode64 : Bool} {P rest : List Byte} {rex : Option Byte} (h : Splits mode64 P rex rest) :
    decode mode64 (P ++ rex.toList ++ rest)
      = (decodeShape mode64 P rex rest).limited (P ++ rex.toList ++ rest).length := by
  unfold decode
  rw [List.append_assoc, splitPrefixes_append h.prefixes (isPrefix_head_of_splits h)]
  simp only [splitRex_toList h.rexByte fun hnone b hb => (h.head hnone b hb).2]
  cases decodeShape mode64 P rex rest <;> rfl

theorem splitPrefixes_spec (bs : List Byte) :
    bs = (splitPrefixes bs).1 ++ (splitPrefixes bs).2 ∧ (∀ b ∈ (splitPrefixes bs).1, isPrefix b = true)
      ∧ ∀ b ∈ (splitPrefixes bs).2.head?, isPrefix b = false := by
  induction bs with
  | nil => simp [splitPrefixes]
  | cons b bs ih =>
    cases hb : isPrefix b with
    | false => simp [splitPrefixes, hb]
    | true =>
      obtain ⟨happend, hall, hhead⟩ := ih
      simp only [splitPrefixes, hb, if_true, List.cons_append, List.forall_mem_cons, true_and]
      exact ⟨congrArg (b :: ·) happend, hall, hhead⟩

/-- Every list of bytes is cut in one way. -/
theorem exists_splits (mode64 : Bool) (bs : List Byte) :
    ∃ P rex rest, bs = P ++ rex.toList ++ rest ∧ Splits mode64 P rex rest := by
  obtain ⟨happend, hall, hhead⟩ := splitPrefixes_spec bs
  cases hrest : (splitPrefixes bs).2 with
  | nil =>
    rw [hrest] at happend
    exact ⟨_, none, [], by simpa using happend, hall, nofun, fun _ => nofun⟩
  | cons b rest =>
    rw [hrest] at happend hhead
    cases hb : (mode64 && bits b 4 4 == 4) with
    | true =>
      refine ⟨_, some b, rest, by simpa using happend, hall, ?_, nofun⟩
      rintro c ⟨rfl⟩
      simpa using hb
    | false =>
      refine ⟨_, none, b :: rest, by simpa using happend, hall, nofun, fun _ c hc => ?_⟩
      cases hc
      exact ⟨hhead b rfl, hb⟩

/-- The decoder asks for more only of bytes that an instruction can still exceed (R78). -/
theorem length_lt_of_decode_more {mode64 : Bool} {bs : List Byte} {next : Missing} (h : decode mode64 bs = .more next) :
    bs.length < 15 := by
  obtain ⟨P, rex, rest, rfl, hsplits⟩ := exists_splits mode64 bs
  rw [decode_of_splits hsplits, limited_eq_more] at h
  exact h.2

end Sys2Proof.Laws
end

section
/-! O16, O17, O19, O27. What a step does with each verdict of the decoder; the bytes that a fetch reads. -/

namespace Sys2Proof.Machine

/-! ### The fetched bytes (R78, R81) -/

/-- A fetch of at most `n` bytes reads accessible bytes only, and ends early only where the next one is not accessible. -/
theorem fetchBytes_accessible (s : State) (a n : Nat) :
    (∀ j, j < (s.fetchBytes a n).length → s.byteAccessible (a + j) = true)
      ∧ ((s.fetchBytes a n).length < n → s.byteAccessible (a + (s.fetchBytes a n).length) = false) := by
  induction n generalizing a with
  | zero => simp [State.fetchBytes]
  | succ n ih =>
    cases ha : s.byteAccessible a with
    | false => simp [State.fetchBytes, ha]
    | true =>
      obtain ⟨hread, hend⟩ := ih (a + 1)
      simp only [State.fetchBytes, ha, if_true, List.length_cons]
      constructor
      · intro j hj
        cases j with
        | zero => exact ha
        | succ j => rw [Nat.add_comm j 1, ← Nat.add_assoc]; exact hread j (Nat.lt_of_succ_lt_succ hj)
      · intro hlt
        rw [Nat.add_comm _ 1, ← Nat.add_assoc]
        exact hend (Nat.lt_of_succ_lt_succ hlt)

/-! ### A step by its verdict (R107, R156) -/

theorem step_of_not_ended {s : State} (h : s.ended = false) : step s = andThen s.fetch fun i => exec i s := by
  simp [step, h]

theorem step_of_instr {s : State} {i : Instr} {rest : List Byte} (h : s.ended = false)
    (hd : decode s.cfg.mode64 s.window = .instr i rest) : step s = exec i s := by
  simp [step_of_not_ended h, State.fetch, hd]

theorem step_of_ud {s : State} {i : Instr} {extra : Nat} (h : s.ended = false)
    (hd : decode s.cfg.mode64 s.window = .ud i extra) :
    step s = match s.refusalAt i extra with | some r => .refused r | none => .fault (.ud s.pc) := by
  rw [step_of_not_ended h]
  simp only [State.fetch, hd, State.udVerdict]
  cases s.refusalAt i extra <;> rfl

theorem step_of_refuse {s : State} {r : DecodeRefusal} (h : s.ended = false)
    (hd : decode s.cfg.mode64 s.window = .refuse r) : step s = .refused (.undecodable r) := by
  simp [step_of_not_ended h, State.fetch, hd]

theorem step_of_more {s : State} {next : Missing} (h : s.ended = false)
    (hd : decode s.cfg.mode64 s.window = .more next) :
    step s = match s.missingRefusal next with
      | some r => .refused r
      | none => .fault (.pf (BitVec.ofNat 64 (s.pc.toNat + s.window.length)) s.pc) := by
  rw [step_of_not_ended h]
  simp only [State.fetch, hd]
  cases s.missingRefusal next <;> rfl

end Sys2Proof.Machine

namespace Sys2Proof.Proofs

open Machine Laws

/-- Settles O16: a fetched instruction is executed at the state of the fetch. -/
theorem stepRunsTheDecodedInstruction : Obligations.StepRunsTheDecodedInstruction :=
  fun _ _ _ hrun hdecode _ => step_of_instr hrun hdecode

/-- Settles O17: the window ends before 15 bytes, so at a byte that is not accessible. -/
theorem missingInstructionByteFaults : Obligations.MissingInstructionByteFaults := by
  intro s next hrun hdecode
  have hstep := step_of_more hrun hdecode
  obtain ⟨hread, hend⟩ := fetchBytes_accessible s s.pc.toNat 15
  refine ⟨fun r hr => ?_, fun hnone => ⟨?_, hend (length_lt_of_decode_more hdecode), hread⟩⟩
  · rw [hstep, hr]
  · rw [hstep, hnone]

/-- Settles O19: R21's refusal is asked first, then R44's. -/
theorem undecodableBytesStop : Obligations.UndecodableBytesStop := by
  intro s hrun
  refine ⟨fun i extra hdecode => ?_, fun r hdecode => step_of_refuse hrun hdecode⟩
  have hstep := step_of_ud hrun hdecode
  refine ⟨fun hwrap => ?_, fun hfits hmis => ?_, fun hfits haligned => ?_⟩
  · have hrefusal : s.refusalAt i extra = some .pcWrap := (formRefusal_eq_pcWrap ..).2 hwrap
    rw [hstep, hrefusal]
  · have hrefusal : s.refusalAt i extra = some .alignmentCheckUnmodelled :=
      (formRefusal_eq_alignment ..).2 ⟨hfits, hmis⟩
    rw [hstep, hrefusal]
  · have hnone : s.refusalAt i extra = none := (formRefusal_eq_none ..).2 ⟨hfits, haligned⟩
    rw [hstep, hnone]

/-- Settles O27: each address is the exact sum in 64 bits, cut to the address size. -/
theorem effectiveAddressIsTheExactSum : Obligations.EffectiveAddressIsTheExactSum :=
  toNat_effectiveAddress

/-- Settles O5: each worked encoding, evaluated. -/
theorem workedEncodingsDecode : Obligations.WorkedEncodingsDecode := by
  unfold Obligations.WorkedEncodingsDecode
  decide

end Sys2Proof.Proofs
end

section
/-! ModRM, SIB and displacement read back and written again (R64, R65): what the decoder reads from bytes is an operand whose
bytes they are, with the extension bits that name its registers. -/

namespace Sys2Proof.Laws

/-! ### Bit fields -/

theorem bits_lt (b : Byte) (lo n : Nat) : bits b lo n < 2 ^ n := Nat.mod_lt _ (Nat.two_pow_pos n)

theorem barred_lt (b : Byte) (lo n : Nat) : barred b lo n < 2 ^ n := by
  have h := Nat.two_pow_pos n
  unfold barred
  omega

/-- A byte is written from its three fields. -/
theorem fieldByte_bits (b : Byte) : fieldByte (bits b 6 2) (bits b 3 3) (bits b 0 3) = b := by
  apply BitVec.eq_of_toNat_eq
  have hb := b.isLt
  simp only [fieldByte, bits, BitVec.toNat_ofNat]
  omega

theorem val_ofNat_of_lt {n : Nat} [NeZero n] {v : Nat} (h : v < n) : (Fin.ofNat n v).val = v := Nat.mod_eq_of_lt h

/-! ### Displacements -/

theorem readD32_eq_some {bs rest : List Byte} {d : BitVec 32} (h : readD32 bs = some (d, rest)) :
    bs = d32Bytes d ++ rest := by
  match bs, h with
  | b0 :: b1 :: b2 :: b3 :: bs, h =>
    simp only [readD32, Option.some.injEq, Prod.mk.injEq] at h
    obtain ⟨rfl, rfl⟩ := h
    have h0 := b0.isLt
    have h1 := b1.isLt
    have h2 := b2.isLt
    have h3 := b3.isLt
    have hbyte : ∀ (v : Nat) (b : Byte), v % 256 = b.toNat → BitVec.ofNat 8 v = b := fun v b hv =>
      BitVec.eq_of_toNat_eq (by simpa using hv)
    simp only [d32Bytes, BitVec.toNat_ofNat, List.cons_append, List.nil_append, List.cons.injEq, and_true]
    refine ⟨(hbyte _ _ ?_).symm, (hbyte _ _ ?_).symm, (hbyte _ _ ?_).symm, (hbyte _ _ ?_).symm⟩ <;> omega

theorem readDisp_eq_some {mod : Nat} {bs rest : List Byte} {d : Disp} (hmod : mod < 3)
    (h : readDisp mod bs = some (d, rest)) : bs = d.bytes ++ rest ∧ d.mod = mod := by
  match mod, hmod, h with
  | 0, _, h =>
    cases h
    exact ⟨rfl, rfl⟩
  | 1, _, h =>
    cases bs with
    | nil => cases h
    | cons b bs =>
      cases h
      exact ⟨rfl, rfl⟩
  | 2, _, h =>
    simp only [readDisp, OfNat.ofNat_ne_zero, if_false, OfNat.ofNat_ne_one] at h
    split at h
    · next d' bs' hd =>
      cases h
      exact ⟨readD32_eq_some hd, rfl⟩
    · cases h

/-! ### The memory operand -/

/-- The registers that the bits `x` and `b` extend are in reach. -/
theorem regOk_extended {ext : Bool} {v low : Nat} (hext : ext = false → v = 0) (hlow : low < 8) :
    regOk ext (8 * v + low) = true := by
  cases ext with
  | true => simp [regOk]
  | false => simp [regOk, hext rfl, hlow]

theorem val_ofNat_extended {v low : Nat} (hv : v < 2) (hlow : low < 8) :
    (Fin.ofNat 16 (8 * v + low)).val = 8 * v + low := val_ofNat_of_lt (by omega)

/-- Where the low bits 5 of a base do not mean that there is none, they stand with a displacement. -/
theorem displaced {mod low : Nat} {d : Disp} (hd : d.mod = mod) (h : ¬ (mod = 0 ∧ low = 5)) : low ≠ 5 ∨ d ≠ .none := by
  by_contra hcon
  simp only [not_or, Decidable.not_not] at hcon
  obtain ⟨h5, rfl⟩ := hcon
  exact h ⟨hd.symm, h5⟩

/-- What decoding reads as a memory operand after a ModRM byte, written again, is that byte and what was read. -/
theorem readMem_eq_some {modrm : Byte} {x b : Nat} {bs rest : List Byte} {m : MemOp} (hmod : bits modrm 6 2 ≠ 3)
    (hx : x < 2) (hb : b < 2) (h : readMem (bits modrm 6 2) (bits modrm 0 3) x b bs = some (m, rest)) :
    (∃ code, bs = code ++ rest ∧ m.bytes (bits modrm 3 3) = modrm :: code) ∧ m.NamedBy x b
      ∧ ∀ ext, (ext = false → x = 0 ∧ b = 0) → m.wellFormed ext = true := by
  have hmod3 : bits modrm 6 2 < 3 := by
    have := bits_lt modrm 6 2
    omega
  have hrm : bits modrm 0 3 < 8 := bits_lt modrm 0 3
  have hbyte : ∀ {mod rm : Nat}, mod = bits modrm 6 2 → rm = bits modrm 0 3 → fieldByte mod (bits modrm 3 3) rm = modrm := by
    rintro _ _ rfl rfl
    exact fieldByte_bits modrm
  unfold readMem at h
  split at h
  · next hsib =>
    cases bs with
    | nil => cases h
    | cons sib bs =>
      have hbase : bits sib 0 3 < 8 := bits_lt sib 0 3
      have hindex : bits sib 3 3 < 8 := bits_lt sib 3 3
      have hscale : (Fin.ofNat 4 (bits sib 6 2)).val = bits sib 6 2 := val_ofNat_of_lt (bits_lt sib 6 2)
      have hidx := val_ofNat_extended hx hindex
      have hsibByte : fieldByte (bits sib 6 2) ((8 * x + bits sib 3 3) % 8) (bits sib 0 3) = sib := by
        rw [Nat.mul_add_mod, Nat.mod_eq_of_lt hindex, fieldByte_bits]
      simp only at h
      split at h
      · next hnobase =>
        obtain ⟨hmod0, hbase5⟩ := hnobase
        split at h
        · next d bs' hd =>
          cases h
          refine ⟨⟨sib :: d32Bytes d, ?_, ?_⟩, ?_, fun ext hext => ?_⟩
          · rw [readD32_eq_some hd, List.cons_append]
          · simp only [MemOp.bytes, hbyte hmod0.symm hsib.symm, hscale, hidx, ← hbase5, hsibByte]
          · show 8 * x + _ % 8 = _
            omega
          · simp only [MemOp.wellFormed, hidx, regOk_extended (fun h => (hext h).1) hindex]
        · cases h
      · next hbased =>
        split at h
        · next d bs' hd =>
          cases h
          obtain ⟨hbytes, hdmod⟩ := readDisp_eq_some hmod3 hd
          have hreg := val_ofNat_extended hb hbase
          have hlow : (8 * b + bits sib 0 3) % 8 = bits sib 0 3 := by omega
          refine ⟨⟨sib :: d.bytes, ?_, ?_⟩, ⟨?_, ?_⟩, fun ext hext => ?_⟩
          · rw [hbytes, List.cons_append]
          · simp only [MemOp.bytes, hbyte hdmod hsib.symm, hscale, hidx, hreg, hlow, hsibByte]
          · omega
          · omega
          · simp only [MemOp.wellFormed, hreg, hidx, hlow, regOk_extended (fun h => (hext h).1) hindex,
              regOk_extended (fun h => (hext h).2) hbase, Bool.and_true, Bool.or_eq_true, bne_iff_ne]
            exact displaced hdmod hbased
        · cases h
  · next hnosib =>
    split at h
    · next hdisp =>
      obtain ⟨hmod0, hrm5⟩ := hdisp
      split at h
      · next d bs' hd =>
        cases h
        refine ⟨⟨d32Bytes d, readD32_eq_some hd, ?_⟩, trivial, fun _ _ => rfl⟩
        simp only [MemOp.bytes, hbyte hmod0.symm hrm5.symm]
      · cases h
    · next hbased =>
      split at h
      · next d bs' hd =>
        cases h
        obtain ⟨hbytes, hdmod⟩ := readDisp_eq_some hmod3 hd
        have hreg := val_ofNat_extended hb hrm
        have hlow : (8 * b + bits modrm 0 3) % 8 = bits modrm 0 3 := by omega
        refine ⟨⟨d.bytes, hbytes, ?_⟩, ?_, fun ext hext => ?_⟩
        · simp only [MemOp.bytes, hreg, hlow, hbyte hdmod rfl]
        · show 8 * b + _ % 8 = _
          omega
        · simp only [MemOp.wellFormed, hreg, hlow, regOk_extended (fun h => (hext h).2) hrm, Bool.and_true,
            Bool.and_eq_true, Bool.or_eq_true, bne_iff_ne]
          exact ⟨hnosib, displaced hdmod hbased⟩
      · cases h

/-! ### The r/m operand -/

/-- What decoding reads as an r/m operand; `high` is what extends a register operand's number. -/
theorem readRm_eq_some {n : Nat} [NeZero n] {modrm : Byte} {high x b : Nat} {bs rest : List Byte} {src : Rm n}
    (hhigh : high % 8 = 0) (hn : high + 8 ≤ n) (hx : x < 2) (hb : b < 2)
    (h : readRm n modrm (high + bits modrm 0 3) x b bs = some (src, rest)) :
    (∃ code, bs = code ++ rest ∧ src.bytes (bits modrm 3 3) = modrm :: code) ∧ src.NamedBy high x b
      ∧ ∀ ext, (ext = false → high = 0 ∧ x = 0 ∧ b = 0) → src.wellFormed ext = true := by
  unfold readRm at h
  split at h
  · next hmod =>
    cases h
    have hrm : bits modrm 0 3 < 8 := bits_lt modrm 0 3
    have hval : (Fin.ofNat n (high + bits modrm 0 3)).val = high + bits modrm 0 3 := val_ofNat_of_lt (by omega)
    refine ⟨⟨[], rfl, ?_⟩, ?_, fun ext hext => ?_⟩
    · have hlow : (high + bits modrm 0 3) % 8 = bits modrm 0 3 := by omega
      have hbyte : fieldByte 3 (bits modrm 3 3) (bits modrm 0 3) = modrm := by
        have hfields := fieldByte_bits modrm
        rwa [hmod] at hfields
      simp only [Rm.bytes, hval, hlow, hbyte]
    · show high + _ % 8 = _
      omega
    · cases ext with
      | true => simp [Rm.wellFormed, regOk]
      | false =>
        rw [(hext rfl).1, Nat.zero_add] at hval
        simp only [Rm.wellFormed, regOk, (hext rfl).1, Nat.zero_add, hval, hrm, decide_true, Bool.true_or]
  · next hmod =>
    split at h
    · next m bs' hm =>
      cases h
      obtain ⟨hcode, hnamed, hwf⟩ := readMem_eq_some hmod hx hb hm
      exact ⟨hcode, hnamed, fun ext hext => hwf ext fun h => (hext h).2⟩
    · cases h

/-! ### Which extension bits may stand with an r/m operand -/

/-- What extends the number of a register operand of a file of `n`: B, and X where the file has 32 (R72). -/
def extHigh (n x b : Nat) : Nat := (if 16 < n then 16 * x else 0) + 8 * b

theorem xBit_bBit_of_wellFormed {n : Nat} {src : Rm n} (h : src.wellFormed false = true) :
    src.xBit = 0 ∧ src.bBit = 0 := by
  have hlow : ∀ {r : Nat}, regOk false r = true → r / 8 = 0 := fun hr => by
    simp only [regOk, Bool.or_false, decide_eq_true_eq] at hr
    omega
  cases src with
  | reg r =>
    have hr : r.val / 8 = 0 := hlow h
    simp only [Rm.xBit, Rm.bBit]
    omega
  | mem m =>
    cases m with
    | dispOnly d => exact ⟨rfl, rfl⟩
    | base r d => exact ⟨rfl, hlow (Bool.and_eq_true_iff.1 h).2⟩
    | sib r idx scale d =>
      obtain ⟨hleft, hidx⟩ := Bool.and_eq_true_iff.1 h
      exact ⟨hlow hidx, hlow (Bool.and_eq_true_iff.1 hleft).2⟩
    | sibNoBase idx scale d => exact ⟨hlow h, rfl⟩

theorem eq_div_iff_named {v r : Nat} (hr : r < 16) : v = r / 8 ↔ v < 2 ∧ 8 * v + r % 8 = r := by omega

/-- In 64-bit mode the bits that may stand with an operand are those that name its registers. -/
theorem mem_extBits_true_iff {n : Nat} {src : Rm n} {x b : Nat} (hn : n ≤ 32) :
    (x, b) ∈ src.extBits true ↔ x < 2 ∧ b < 2 ∧ src.NamedBy (extHigh n x b) x b := by
  rw [mem_extBits_iff, mem_bitChoices_iff, mem_bitChoices_iff]
  cases src with
  | reg r =>
    have hr := r.isLt
    simp only [Rm.usesX, Rm.usesB, Rm.xBit, Rm.bBit, Rm.NamedBy, extHigh]
    by_cases h16 : 16 < n
    · simp only [h16, decide_true, Bool.not_true, Bool.and_false, Bool.false_eq_true, if_true, false_and, true_and, false_or]
      omega
    · simp only [h16, decide_false, Bool.not_true, Bool.not_false, Bool.and_true, Bool.and_false, Bool.false_eq_true,
        Bool.true_eq_false, if_false, false_and, true_and, false_or, or_false]
      omega
  | mem m =>
    cases m with
    | dispOnly d => simp [Rm.usesX, Rm.usesB, Rm.NamedBy, MemOp.NamedBy]
    | base r d =>
      simp [Rm.usesX, Rm.usesB, Rm.bBit, MemOp.bBit, Rm.NamedBy, MemOp.NamedBy, eq_div_iff_named r.isLt]
    | sib r idx scale d =>
      simp only [Rm.usesX, Rm.usesB, Rm.xBit, MemOp.xBit, Rm.bBit, MemOp.bBit, Rm.NamedBy, MemOp.NamedBy, Bool.not_true,
        Bool.and_false, Bool.false_eq_true, false_and, true_and, false_or, eq_div_iff_named r.isLt,
        eq_div_iff_named idx.isLt]
      tauto
    | sibNoBase idx scale d =>
      simp only [Rm.usesX, Rm.usesB, Rm.xBit, MemOp.xBit, Rm.NamedBy, MemOp.NamedBy, Bool.not_true, Bool.not_false,
        Bool.and_false, Bool.and_true, Bool.false_eq_true, Bool.true_eq_false, false_and, true_and, false_or, or_false,
        eq_div_iff_named idx.isLt]
      tauto

/-- In either mode, with an operand that is encodable in it: outside 64-bit mode no bit is extended. -/
theorem mem_extBits_iff_namedBy {mode64 : Bool} {n : Nat} {src : Rm n} {x b : Nat} (hn : n ≤ 32)
    (hwf : src.wellFormed mode64 = true) :
    (x, b) ∈ src.extBits mode64 ↔
      x < 2 ∧ b < 2 ∧ (mode64 = false → x = 0 ∧ b = 0) ∧ src.NamedBy (extHigh n x b) x b := by
  cases mode64 with
  | true => simp [mem_extBits_true_iff hn]
  | false =>
    obtain ⟨hx, hb⟩ := xBit_bBit_of_wellFormed hwf
    rw [mem_extBits_iff, hx, hb]
    simp only [Bool.false_and, bitChoices, Bool.false_eq_true, if_false, List.mem_singleton, forall_const]
    constructor
    · rintro ⟨rfl, rfl⟩
      have hnamed : src.NamedBy (extHigh n 0 0) 0 0 := by simpa [extHigh] using namedBy_zero hwf
      exact ⟨by decide, by decide, ⟨rfl, rfl⟩, hnamed⟩
    · exact fun h => h.2.2.1

end Sys2Proof.Laws
end

section
/-! Refusals and the prefixes (R66 to R72): what each shape refuses apart from its own fields are its prefixes; the
bytes that are not refused are 0x67 and some of 66, F2, F3 and F0, none twice. -/

namespace Sys2Proof

/-- A verdict where none of the conditions holds, and the refusal of the first that does. -/
def Decoded.orRefused (l : List (Bool × DecodeRefusal)) (d : Decoded) : Decoded :=
  match firstRefusal l with
  | some r => .refuse r
  | none => d

/-- The verdict on a form, or on bytes that raise #UD and are it apart from `extra` bytes. -/
def answer (ud : Bool) (i : Instr) (extra : Nat) (rest : List Byte) : Decoded := if ud then .ud i extra else .instr i rest

/-- The bytes are an instruction or raise #UD. -/
def Decoded.accepted : Decoded → Bool
  | .instr _ _ | .ud _ _ => true
  | .refuse _ | .more _ => false

/-- What the prefixes of a legacy form decide (R68): in addition to what they decide in every shape, F2 and F3. -/
def legacyPrefixRefusals (mode64 : Bool) (P : List Byte) : List (Bool × DecodeRefusal) :=
  (P.contains 0xF2 || P.contains 0xF3, .noSuchRow) :: prefixRefusals mode64 P

/-- The prefixes that raise #UD, or select an SSE2 row (R67, R68, R70). -/
def strayBytes : List Byte := [0x66, 0xF2, 0xF3, 0xF0]

end Sys2Proof

namespace Sys2Proof.Laws

theorem firstRefusal_eq_none {l : List (Bool × DecodeRefusal)} :
    firstRefusal l = none ↔ ∀ c ∈ l, c.1 = false := by
  induction l with
  | nil => simp [firstRefusal]
  | cons c l ih =>
    obtain ⟨holds, r⟩ := c
    cases holds <;> simp [firstRefusal, ih]

theorem orRefused_of_none {l : List (Bool × DecodeRefusal)} {d : Decoded} (h : firstRefusal l = none) :
    d.orRefused l = d := by
  simp only [Decoded.orRefused, h]

theorem orRefused_of_some {l : List (Bool × DecodeRefusal)} {d : Decoded} {r : DecodeRefusal}
    (h : firstRefusal l = some r) : d.orRefused l = .refuse r := by
  simp only [Decoded.orRefused, h]

theorem orRefused_congr {l l' : List (Bool × DecodeRefusal)} {d : Decoded} (h : firstRefusal l = firstRefusal l') :
    d.orRefused l = d.orRefused l' := by
  simp only [Decoded.orRefused, h]

theorem moreUnless_eq (next : Missing) (l : List (Bool × DecodeRefusal)) : moreUnless next l = (Decoded.more next).orRefused l :=
  rfl

/-- Bytes that end early are not accepted. -/
theorem not_accepted_moreUnless (next : Missing) (l : List (Bool × DecodeRefusal)) :
    (moreUnless next l).accepted = false := by
  rw [moreUnless_eq, Decoded.orRefused]
  cases firstRefusal l <;> rfl

theorem accepted_answer (ud : Bool) (i : Instr) (extra : Nat) (rest : List Byte) : (answer ud i extra rest).accepted = true := by
  cases ud <;> rfl

theorem answer_eq_instr {ud : Bool} {i j : Instr} {extra : Nat} {rest rest' : List Byte} :
    answer ud i extra rest = .instr j rest' ↔ ud = false ∧ i = j ∧ rest = rest' := by
  cases ud <;> simp [answer]

theorem answer_eq_ud {ud : Bool} {i j : Instr} {extra extra' : Nat} {rest : List Byte} :
    answer ud i extra rest = .ud j extra' ↔ ud = true ∧ i = j ∧ extra = extra' := by
  cases ud <;> simp [answer]

/-! ### The refusals of the shapes apart from the prefixes (R68, R70, R72, R73, R76) -/

section Refusals

variable (mode64 : Bool) (P : List Byte)

theorem firstRefusal_legacyRefusals {rexBits : Byte} (hw : bits rexBits 3 1 = 0)
    (hr : P.contains 0x66 = false → bits rexBits 2 1 = 0) :
    firstRefusal (legacyRefusals mode64 P rexBits) = firstRefusal (legacyPrefixRefusals mode64 P) := by
  have hmm : (!P.contains 0x66 && bits rexBits 2 1 == 1) = false := by
    cases h66 : P.contains 0x66 with
    | true => rfl
    | false => simp [hr h66]
  simp only [legacyRefusals, legacyPrefixRefusals, prefixRefusals, firstRefusal, hw, hmm, Nat.reduceBEq, Bool.false_eq_true,
    if_false]

theorem legacyRefusals_eq_none {rexBits : Byte} :
    firstRefusal (legacyRefusals mode64 P rexBits) = none ↔
      firstRefusal (legacyPrefixRefusals mode64 P) = none ∧ bits rexBits 3 1 ≠ 1
        ∧ (P.contains 0x66 = false → bits rexBits 2 1 ≠ 1) := by
  simp only [firstRefusal_eq_none, legacyRefusals, legacyPrefixRefusals, prefixRefusals, List.forall_mem_cons,
    Bool.and_eq_false_imp, Bool.not_eq_true', beq_eq_false_iff_ne]
  tauto

theorem firstRefusal_vexRefusals {f : VexFields} (hpp : f.pp = 1) (hmap : f.map = 1)
    (hext : mode64 = false → f.b ≠ 1 ∧ f.vvvv < 8) :
    firstRefusal (vexRefusals mode64 P f) = firstRefusal (prefixRefusals mode64 P) := by
  have hbits : (!mode64 && (f.b == 1 || decide (8 ≤ f.vvvv))) = false := by
    cases mode64 with
    | true => rfl
    | false => simp [hext rfl]
  simp [vexRefusals, prefixRefusals, firstRefusal, hpp, hmap, hbits, -List.contains_eq_mem]

theorem vexRefusals_eq_none {f : VexFields} :
    firstRefusal (vexRefusals mode64 P f) = none ↔
      firstRefusal (prefixRefusals mode64 P) = none ∧ f.pp = 1 ∧ f.map = 1
        ∧ (mode64 = false → f.b ≠ 1 ∧ f.vvvv < 8) := by
  simp only [firstRefusal_eq_none, vexRefusals, prefixRefusals, List.forall_mem_cons, Bool.or_eq_false_iff,
    Bool.and_eq_false_imp, Bool.not_eq_true', beq_eq_false_iff_ne, bne_eq_false_iff_eq, decide_eq_false_iff_not, Nat.not_le]
  tauto

theorem evexRefusals_eq_none {p0 p1 p2 : Byte} {roundReg : Bool} :
    firstRefusal (evexRefusals mode64 P p0 p1 p2 roundReg) = none ↔
      firstRefusal (prefixRefusals mode64 P) = none ∧ (bits p0 2 2 = 0 ∧ bits p1 2 1 = 1)
        ∧ (bits p0 0 2 = 1 ∧ bits p1 0 2 = 1) ∧ bits p2 5 2 ≠ 3 ∧ bits p2 7 1 ≠ 1 ∧ roundReg = false
        ∧ (bits p0 7 1 ≠ 0 ∧ bits p0 4 1 ≠ 0)
        ∧ (mode64 = false → barred p0 5 1 ≠ 1 ∧ 16 * barred p2 3 1 + barred p1 3 4 < 8) := by
  simp only [firstRefusal_eq_none, evexRefusals, prefixRefusals, List.forall_mem_cons, Bool.or_eq_false_iff,
    Bool.and_eq_false_imp, Bool.not_eq_true', beq_eq_false_iff_ne, bne_eq_false_iff_eq, decide_eq_false_iff_not, Nat.not_le]
  tauto

theorem firstRefusal_evexRefusals {p0 p1 p2 : Byte} {roundReg : Bool} (hres : bits p0 2 2 = 0 ∧ bits p1 2 1 = 1)
    (hrow : bits p0 0 2 = 1 ∧ bits p1 0 2 = 1) (hll : bits p2 5 2 ≠ 3) (hz : bits p2 7 1 ≠ 1) (hround : roundReg = false)
    (hr : bits p0 7 1 ≠ 0 ∧ bits p0 4 1 ≠ 0)
    (hext : mode64 = false → barred p0 5 1 ≠ 1 ∧ 16 * barred p2 3 1 + barred p1 3 4 < 8) :
    firstRefusal (evexRefusals mode64 P p0 p1 p2 roundReg) = firstRefusal (prefixRefusals mode64 P) := by
  have hbits : (!mode64 && (barred p0 5 1 == 1 || decide (8 ≤ 16 * barred p2 3 1 + barred p1 3 4))) = false := by
    cases mode64 with
    | true => rfl
    | false => simp [hext rfl]
  simp only [evexRefusals, prefixRefusals, firstRefusal, hres, hrow, hround, hbits, bne_self_eq_false, Bool.or_self,
    beq_eq_false_iff_ne.2 hll, beq_eq_false_iff_ne.2 hz, beq_eq_false_iff_ne.2 hr.1, beq_eq_false_iff_ne.2 hr.2,
    Bool.false_eq_true, if_false]

end Refusals

/-! ### The prefixes (R66, R67) -/

theorem prefixRefusals_perm {P Q : List Byte} (h : P.Perm Q) (mode64 : Bool) :
    prefixRefusals mode64 P = prefixRefusals mode64 Q := by
  simp only [prefixRefusals, hasSegment, h.contains_eq, hasRepeat_perm h]

theorem legacyPrefixRefusals_perm {P Q : List Byte} (h : P.Perm Q) (mode64 : Bool) :
    legacyPrefixRefusals mode64 P = legacyPrefixRefusals mode64 Q := by
  simp only [legacyPrefixRefusals, prefixRefusals_perm h, h.contains_eq]

theorem mem_addrPrefix {a : Bool} {b : Byte} : b ∈ addrPrefix a ↔ a = true ∧ b = 0x67 := by
  cases a <;> simp [addrPrefix]

/-- What decides the decoding of 0x67 with some of the stray bytes, none twice. -/
theorem strays_spec {stray : List Byte} (h : stray.Sublist strayBytes) (a : Bool) :
    (∀ b ∈ stray ++ addrPrefix a, isPrefix b = true) ∧ hasSegment (stray ++ addrPrefix a) = false
      ∧ hasRepeat (stray ++ addrPrefix a) = false ∧ (stray ++ addrPrefix a).contains 0x67 = a
      ∧ ((stray ++ addrPrefix a).filter (· != 0x67)).length = stray.length
      ∧ ∀ c ∈ strayBytes, (stray ++ addrPrefix a).contains c = stray.contains c := by
  have haddr : (0x67 : Byte) ∉ stray := fun hmem => absurd (h.subset hmem) (by decide)
  have hall : ∀ b ∈ stray ++ addrPrefix a, b ∈ strayBytes ∨ b = 0x67 := fun b hb =>
    (List.mem_append.1 hb).imp (fun hs => h.subset hs) fun hs => (mem_addrPrefix.1 hs).2
  have hother : ∀ c, ¬ (c ∈ strayBytes ∨ c = 0x67) → (stray ++ addrPrefix a).contains c = false := fun c hc => by
    simpa only [List.contains_eq_mem, decide_eq_false_iff_not] using fun hmem => hc (hall c hmem)
  refine ⟨fun b hb => ?_, ?_, ?_, ?_, ?_, fun c hc => ?_⟩
  · have hprefixes : ∀ b ∈ strayBytes, isPrefix b = true := by decide
    rcases hall b hb with hs | rfl
    · exact hprefixes b hs
    · rfl
  · simp only [hasSegment, Bool.or_eq_false_iff]
    refine ⟨⟨⟨⟨⟨?_, ?_⟩, ?_⟩, ?_⟩, ?_⟩, ?_⟩ <;> exact hother _ (by decide)
  · refine (hasRepeat_eq_false _).2 (List.nodup_append.2 ⟨h.nodup (by decide), ?_, fun b hb c hc => ?_⟩)
    · cases a <;> simp [addrPrefix]
    · rw [(mem_addrPrefix.1 hc).2]
      exact fun hbc => haddr (hbc ▸ hb)
  · rw [Bool.eq_iff_iff, List.contains_iff_mem, List.mem_append, or_iff_right haddr, mem_addrPrefix, and_iff_left rfl]
  · have hstray : stray.filter (· != 0x67) = stray :=
      List.filter_eq_self.2 fun b hb => bne_iff_ne.2 fun hbc => haddr (hbc ▸ hb)
    have hnone : (addrPrefix a).filter (· != 0x67) = [] := by cases a <;> rfl
    rw [List.filter_append, hstray, hnone, List.append_nil]
  · have hne : c ∉ addrPrefix a := fun hmem => by
      rw [(mem_addrPrefix.1 hmem).2] at hc
      exact absurd hc (by decide)
    rw [Bool.eq_iff_iff, List.contains_iff_mem, List.contains_iff_mem, List.mem_append, or_iff_left hne]

section Strays

variable {mode64 a : Bool} {stray P : List Byte} (hstray : stray.Sublist strayBytes) (hP : P.Perm (stray ++ addrPrefix a))

include hstray hP

theorem isPrefix_of_strays : ∀ b ∈ P, isPrefix b = true := fun b hb =>
  (strays_spec hstray a).1 b (hP.mem_iff.1 hb)

theorem contains_addr_of_strays : P.contains 0x67 = a := by
  obtain ⟨-, -, -, h67, -⟩ := strays_spec hstray a
  rw [hP.contains_eq, h67]

theorem contains_of_strays {c : Byte} (hc : c ∈ strayBytes) : P.contains c = stray.contains c := by
  obtain ⟨-, -, -, -, -, hmem⟩ := strays_spec hstray a
  rw [hP.contains_eq, hmem c hc]

theorem strayPrefixes_of_strays (rex : Option Byte) : strayPrefixes P rex = stray.length + rex.isSome.toNat := by
  obtain ⟨-, -, -, -, hlen, -⟩ := strays_spec hstray a
  rw [strayPrefixes, (hP.filter _).length_eq, hlen]

theorem prefixRefusals_of_strays (ha : a = true → mode64 = true) : firstRefusal (prefixRefusals mode64 P) = none := by
  obtain ⟨-, hseg, hrep, h67, -⟩ := strays_spec hstray a
  have haddr : (a && !mode64) = false := by
    cases a with
    | false => rfl
    | true => simp [ha rfl]
  rw [prefixRefusals_perm hP]
  simp only [prefixRefusals, hseg, hrep, h67, haddr, firstRefusal, Bool.false_eq_true, if_false]

end Strays

/-- Prefix bytes that are not refused are 0x67, in 64-bit mode, and some of the stray bytes, in any order. -/
theorem strays_of_prefixRefusals {mode64 : Bool} {P : List Byte} (hP : ∀ b ∈ P, isPrefix b = true)
    (h : firstRefusal (prefixRefusals mode64 P) = none) :
    P.Perm (strayBytes.filter (P.contains ·) ++ addrPrefix (P.contains 0x67)) ∧ (P.contains 0x67 = true → mode64 = true) := by
  simp only [firstRefusal_eq_none, prefixRefusals, List.forall_mem_cons, Bool.and_eq_false_imp, Bool.not_eq_false'] at h
  obtain ⟨hseg, hrep, haddr, -⟩ := h
  refine ⟨?_, haddr⟩
  have hstray : (strayBytes.filter (P.contains ·)).Sublist strayBytes := List.filter_sublist
  obtain ⟨-, -, hnodup, -⟩ := strays_spec hstray (P.contains 0x67)
  refine (List.perm_ext_iff_of_nodup ((hasRepeat_eq_false P).1 hrep) ((hasRepeat_eq_false _).1 hnodup)).2 fun b => ?_
  have hb : b ∈ P → b ∈ strayBytes ∨ b = 0x67 := fun hmem => by
    have hp := hP b hmem
    simp only [isPrefix, Bool.or_eq_true, beq_iff_eq] at hp
    simp only [hasSegment, Bool.or_eq_false_iff, List.contains_eq_mem, decide_eq_false_iff_not] at hseg
    simp only [strayBytes, List.mem_cons, List.not_mem_nil, or_false]
    rcases hp with (((((((((rfl | rfl) | rfl) | rfl) | rfl) | rfl) | rfl) | rfl) | rfl) | rfl) | rfl <;> simp_all
  have haddrPrefix : b ∈ addrPrefix (P.contains 0x67) ↔ b = 0x67 ∧ b ∈ P := by
    unfold addrPrefix
    split <;> simp_all
  rw [List.mem_append, haddrPrefix, List.mem_filter, List.contains_iff_mem]
  tauto

end Sys2Proof.Laws
end

section
/-! The bytes after the prefixes and the REX byte, shape by shape (R68, R70, R72): what decoding answers on the bytes of a form
in any of its spellings, and that bytes on which it answers a form or #UD are such bytes. -/

namespace Sys2Proof

open Laws

/-- An EVEX form from its fields; with the opcodes 74 and 75 the bit `bc`, EVEX.b, is not part of it (R72). -/
def evexForm (e : Elem) (ll bc : Nat) (addr32 : Bool) (dst : Fin 8) (mask : Option (Fin 8)) (src1 : Fin 32) (src2 : Rm 32) :
    Instr :=
  match e with
  | .byte => evexBInstr ll addr32 dst mask src1 src2
  | .word => evexWInstr ll addr32 dst mask src1 src2
  | .dword => evexDInstr ll addr32 dst mask src1 (broadcastRm (bc == 1) src2)

/-- What raises #UD in an EVEX body: W = 1 with the opcode 76, EVEX.b = 1 with 74 or 75 (R72, R155). -/
def evexBodyUd (e : Elem) (w bc : Nat) : Bool :=
  match e with
  | .dword => w == 1
  | .byte | .word => bc == 1

/-- The bytes `code` from 0F, C5, C4 or 62 on, after the REX byte `rex`, are the form `i`, encodable in the mode, in one of its
spellings; `ud` says that they have something in addition that raises #UD. -/
inductive Shape (mode64 : Bool) (rex : Option Byte) : (code : List Byte) → (i : Instr) → (ud : Bool) → Prop where
  | mm {e : Elem} {p : LegacyPrefix} {dst : Fin 8} {src : Rm 8} {x b : Nat}
      (hwf : legacyWellFormed mode64 p dst src = true) (hxb : (x, b) ∈ src.extBits mode64)
      (hrex : rex = rexField p.rex dst x b) :
      Shape mode64 rex (0x0F :: e.opcode :: src.bytes (dst.val % 8)) (mmInstr e p dst src) false
  | xmm {e : Elem} {p : LegacyPrefix} {dst : Fin 16} {src : Rm 16} {x b : Nat}
      (hwf : legacyWellFormed mode64 p dst src = true) (hxb : (x, b) ∈ src.extBits mode64)
      (hrex : rex = rexField p.rex dst x b) :
      Shape mode64 rex (0x0F :: e.opcode :: src.bytes (dst.val % 8)) (xmmInstr e p dst src) false
  | vex {e : Elem} {l w x b : Nat} {p : VexPrefix} {dst src1 : Fin 16} {src2 : Rm 16}
      (hl : l < 2) (hw : w < 2) (hwf : vexWellFormed mode64 p dst src1 src2 = true) (hxb : (x, b) ∈ src2.extBits mode64) :
      Shape mode64 rex (vexBody e l p.three dst src1 src2 w x b) (vexInstr e l p dst src1 src2) false
  | evex {e : Elem} {ll bc w x b : Nat} {addr32 : Bool} {dst : Fin 8} {mask : Option (Fin 8)} {src1 : Fin 32} {src2 : Rm 32}
      (hll : ll < 3) (hbc : bc < 2) (hw : w < 2) (hwf : evexWellFormed mode64 addr32 mask src1 = true)
      (hsrc : src2.wellFormed mode64 = true) (hxb : (x, b) ∈ src2.extBits mode64)
      (hround : e = .dword → bc = 1 → ∃ m, src2 = .mem m) :
      Shape mode64 rex (evexBody e ll bc dst mask src1 src2 w x b) (evexForm e ll bc addr32 dst mask src1 src2)
        (evexBodyUd e w bc)

/-- A legacy form (R68). -/
def Instr.isLegacy (i : Instr) : Bool := i.formClass == .mmx || i.formClass == .sse2

/-- What the prefixes before the form decide (R68, R70, R72). -/
def Instr.refusals (mode64 : Bool) (P : List Byte) (i : Instr) : List (Bool × DecodeRefusal) :=
  if i.isLegacy then legacyPrefixRefusals mode64 P else prefixRefusals mode64 P

/-- How many bytes before the form's own raise #UD: LOCK before a legacy form; before the others all prefixes but 0x67,
and REX (R68, R70, R72). -/
def Instr.extraBytes (P : List Byte) (rex : Option Byte) (i : Instr) : Nat :=
  if i.isLegacy then (P.contains 0xF0).toNat else strayPrefixes P rex

/-- The prefixes are not refused and have those that the form has (R60, R66, R67). -/
structure Admits (mode64 : Bool) (P : List Byte) (i : Instr) : Prop where
  unrefused : firstRefusal (i.refusals mode64 P) = none
  addr32 : P.contains 0x67 = i.addr32
  row66 : i.isLegacy = true → P.contains 0x66 = (i.formClass == .sse2)

end Sys2Proof

namespace Sys2Proof.Laws

theorem elemOf_eq_some {op : Byte} {e : Elem} (h : elemOf op = some e) : op = e.opcode := by
  unfold elemOf at h
  split at h
  · next hop => cases h; exact hop
  · split at h
    · next hop => cases h; exact hop
    · split at h
      · next hop => cases h; exact hop
      · cases h

theorem extHigh_eq {n : Nat} (h : n ≤ 16) (x b : Nat) : extHigh n x b = 8 * b := by
  simp [extHigh, Nat.not_lt.2 h]

/-! ### The VEX shape (R69, R70) -/

section Vex

variable {mode64 : Bool} {P : List Byte} {rex : Option Byte}

theorem vexWellFormed_iff (mode64 : Bool) (p : VexPrefix) (dst src1 : Fin 16) (src2 : Rm 16) :
    vexWellFormed mode64 p dst src1 src2 = true ↔
      (p.addr32 = true → mode64 = true) ∧ (mode64 = false → dst.val < 8 ∧ src1.val < 8)
        ∧ src2.wellFormed (mode64 && p.three) = true := by
  cases h32 : p.addr32 <;> cases mode64 <;> simp [vexWellFormed, regOk, h32, and_assoc]

theorem decodeVex_of_read {f : VexFields} (e : Elem) {modrm : Byte} {bs rest : List Byte} {src2 : Rm 16}
    (hread : readRm 16 modrm (8 * f.b + bits modrm 0 3) f.x f.b bs = some (src2, rest)) :
    decodeVex mode64 P rex f (e.opcode :: modrm :: bs)
      = (answer (strayPrefixes P rex != 0)
          (vexInstr e f.l ⟨P.contains 0x67, f.three⟩ (Fin.ofNat 16 (8 * f.r + bits modrm 3 3)) (Fin.ofNat 16 f.vvvv) src2)
          (strayPrefixes P rex) rest).orRefused (vexRefusals mode64 P f) := by
  simp only [decodeVex, elemOf_opcode, hread, Decoded.orRefused, answer]
  cases firstRefusal (vexRefusals mode64 P f) with
  | some r => rfl
  | none => by_cases hstray : strayPrefixes P rex = 0 <;> simp [hstray]

theorem decodeVex_accepted {f : VexFields} {bs : List Byte} (h : (decodeVex mode64 P rex f bs).accepted = true) :
    firstRefusal (vexRefusals mode64 P f) = none ∧ ∃ (e : Elem) (modrm : Byte) (code : List Byte) (src2 : Rm 16) (rest : List Byte),
      bs = e.opcode :: modrm :: code
      ∧ readRm 16 modrm (8 * f.b + bits modrm 0 3) f.x f.b code = some (src2, rest) := by
  match bs with
  | [] =>
    exact absurd h (by simp [decodeVex, not_accepted_moreUnless])
  | op :: bs =>
    rw [decodeVex] at h
    split at h
    · cases h
    · next e he =>
      cases elemOf_eq_some he
      split at h
      · cases h
      · next hnone =>
        refine ⟨hnone, ?_⟩
        match bs with
        | [] => cases h
        | modrm :: code =>
          simp only at h
          split at h
          · exact absurd h (by simp [not_accepted_moreUnless])
          · next src2 rest hread => exact ⟨e, modrm, code, src2, rest, rfl, hread⟩

/-- The fields of the three-byte form, as they are written. -/
theorem vexThree_ofNat {r x b w l : Nat} {src1 : Fin 16} (hr : r < 2) (hx : x < 2) (hb : b < 2) (hl : l < 2) :
    vexThree (BitVec.ofNat 8 (128 * (1 - r) + 64 * (1 - x) + 32 * (1 - b) + 1))
        (BitVec.ofNat 8 (128 * w + (8 * (15 - src1.val) + 4 * l + 1)))
      = { three := true, r := r, x := x, b := b, map := 1, vvvv := src1.val, l := l, pp := 1 } := by
  simp only [vexThree, barred, bits, BitVec.toNat_ofNat, VexFields.mk.injEq, true_and]
  omega

/-- The fields of the two-byte form, as they are written. -/
theorem vexTwo_ofNat {r l : Nat} {src1 : Fin 16} (hr : r < 2) (hl : l < 2) :
    vexTwo (BitVec.ofNat 8 (128 * (1 - r) + (8 * (15 - src1.val) + 4 * l + 1)))
      = { three := false, r := r, x := 0, b := 0, map := 1, vvvv := src1.val, l := l, pp := 1 } := by
  simp only [vexTwo, barred, bits, BitVec.toNat_ofNat, VexFields.mk.injEq, true_and]
  omega

theorem vexThree_bytes {v1 v2 : Byte} (hmap : (vexThree v1 v2).map = 1) (hpp : (vexThree v1 v2).pp = 1) :
    v1 = BitVec.ofNat 8 (128 * (1 - barred v1 7 1) + 64 * (1 - barred v1 6 1) + 32 * (1 - barred v1 5 1) + 1)
      ∧ v2 = BitVec.ofNat 8 (128 * bits v2 7 1 + (8 * (15 - barred v2 3 4) + 4 * bits v2 2 1 + 1)) := by
  have h1 := v1.isLt
  have h2 := v2.isLt
  simp only [vexThree, bits] at hmap hpp
  constructor <;> apply BitVec.eq_of_toNat_eq <;> simp only [barred, bits, BitVec.toNat_ofNat] <;> omega

theorem vexTwo_bytes {v0 : Byte} (hpp : (vexTwo v0).pp = 1) :
    v0 = BitVec.ofNat 8 (128 * (1 - barred v0 7 1) + (8 * (15 - barred v0 3 4) + 4 * bits v0 2 1 + 1)) := by
  have h0 := v0.isLt
  simp only [vexTwo, bits] at hpp
  apply BitVec.eq_of_toNat_eq
  simp only [barred, bits, BitVec.toNat_ofNat]
  omega

theorem decodeShape_vexTwo {v0 : Byte} (h : opensVex mode64 v0 = true) (bs : List Byte) :
    decodeShape mode64 P rex (0xC5 :: v0 :: bs) = decodeVex mode64 P rex (vexTwo v0) bs := by
  simp [decodeShape, h]

theorem decodeShape_vexThree {v1 : Byte} (h : opensVex mode64 v1 = true) (v2 : Byte) (bs : List Byte) :
    decodeShape mode64 P rex (0xC4 :: v1 :: v2 :: bs) = decodeVex mode64 P rex (vexThree v1 v2) bs := by
  simp [decodeShape, h]

theorem opensVex_eq_true {b : Byte} : opensVex mode64 b = true ↔ (mode64 = false → bits b 6 2 = 3) := by
  cases mode64 <;> simp [opensVex]

/-- The bytes of a VEX form, in any of its spellings. -/
theorem decodeShape_vexBody {e : Elem} {l w x b : Nat} {three : Bool} {dst src1 : Fin 16} {src2 : Rm 16} (hl : l < 2)
    (hlow : mode64 = false → dst.val < 8 ∧ src1.val < 8)
    (hsrc : src2.wellFormed (mode64 && three) = true) (hxb : (x, b) ∈ src2.extBits mode64) (tail : List Byte) :
    decodeShape mode64 P rex (vexBody e l three dst src1 src2 w x b ++ tail)
      = (answer (strayPrefixes P rex != 0) (vexInstr e l ⟨P.contains 0x67, three⟩ dst src1 src2) (strayPrefixes P rex)
          tail).orRefused (prefixRefusals mode64 P) := by
  have hr : dst.val / 8 < 2 := Nat.div_lt_of_lt_mul dst.isLt
  have hdst : ∀ v, v = dst.val % 8 → Fin.ofNat 16 (8 * (dst.val / 8) + v) = dst := fun v hv =>
    ofNat_eq_of_eq_val (by omega)
  cases three with
  | false =>
    rw [Bool.and_false] at hsrc
    obtain ⟨modrm, code, hbytes, hfield, -, hread⟩ :=
      readRm_bytes (Nat.mod_lt dst.val (by decide : 0 < 8)) hsrc (namedBy_zero hsrc) tail
    have hf := vexTwo_ofNat (src1 := src1) hr hl
    have hopens : opensVex mode64 (BitVec.ofNat 8 (128 * (1 - dst.val / 8) + (8 * (15 - src1.val) + 4 * l + 1))) = true :=
      opensVex_eq_true.2 fun hmode => by
        have := hlow hmode
        simp only [bits, BitVec.toNat_ofNat]
        omega
    simp only [vexBody, hbytes, Bool.false_eq_true, if_false, List.cons_append, List.nil_append]
    rw [decodeShape_vexTwo hopens, hf, decodeVex_of_read e hread, hdst _ hfield, Fin.ofNat_val_eq_self]
    exact orRefused_congr (firstRefusal_vexRefusals mode64 P rfl rfl fun hmode => ⟨by simp, (hlow hmode).2⟩)
  | true =>
    rw [Bool.and_true] at hsrc
    obtain ⟨hx, hb, hmode0, hnamed⟩ := (mem_extBits_iff_namedBy (by decide) hsrc).1 hxb
    rw [extHigh_eq (by decide)] at hnamed
    obtain ⟨modrm, code, hbytes, hfield, -, hread⟩ :=
      readRm_bytes (Nat.mod_lt dst.val (by decide : 0 < 8)) hsrc hnamed tail
    have hf := vexThree_ofNat (w := w) (src1 := src1) hr hx hb hl
    have hopens : opensVex mode64
        (BitVec.ofNat 8 (128 * (1 - dst.val / 8) + 64 * (1 - x) + 32 * (1 - b) + 1)) = true :=
      opensVex_eq_true.2 fun hmode => by
        have h8 := hlow hmode
        have h0 := hmode0 hmode
        simp only [bits, BitVec.toNat_ofNat]
        omega
    simp only [vexBody, hbytes, if_true, List.cons_append, List.nil_append]
    rw [decodeShape_vexThree hopens, hf, decodeVex_of_read e hread, hdst _ hfield, Fin.ofNat_val_eq_self]
    exact orRefused_congr
      (firstRefusal_vexRefusals mode64 P rfl rfl fun hmode => ⟨by simp [hmode0 hmode], (hlow hmode).2⟩)

/-- What the bytes of the VEX shape are, where they are accepted. -/
theorem decodeVex_operands {f : VexFields} {bs : List Byte} (hr : f.r < 2) (hx : f.x < 2) (hb : f.b < 2)
    (hvvvv : f.vvvv < 16) (hmode : mode64 = false → f.r = 0) (h : (decodeVex mode64 P rex f bs).accepted = true) :
    (firstRefusal (prefixRefusals mode64 P) = none ∧ f.pp = 1 ∧ f.map = 1 ∧ (mode64 = false → f.b = 0))
      ∧ ∃ (e : Elem) (dst src1 : Fin 16) (src2 : Rm 16) (rest : List Byte),
        bs = e.opcode :: src2.bytes (dst.val % 8) ++ rest ∧ dst.val / 8 = f.r ∧ src1.val = f.vvvv
          ∧ (mode64 = false → dst.val < 8 ∧ src1.val < 8) ∧ src2.NamedBy (8 * f.b) f.x f.b
          ∧ ∀ ext, (ext = false → f.x = 0 ∧ f.b = 0) → src2.wellFormed ext = true := by
  obtain ⟨hnone, e, modrm, code, src2, rest, rfl, hread⟩ := decodeVex_accepted h
  obtain ⟨hprefixes, hpp, hmap, hext⟩ := (vexRefusals_eq_none mode64 P).1 hnone
  obtain ⟨⟨tail, rfl, hbytes⟩, hnamed, hwf⟩ := readRm_eq_some (by omega) (by omega) hx hb hread
  have hreg : bits modrm 3 3 < 8 := bits_lt modrm 3 3
  have hdst := val_ofNat_extended hr hreg
  have hsrc1 : (Fin.ofNat 16 f.vvvv).val = f.vvvv := val_ofNat_of_lt hvvvv
  have hlow : (8 * f.r + bits modrm 3 3) % 8 = bits modrm 3 3 := by omega
  refine ⟨⟨hprefixes, hpp, hmap, fun hm => ?_⟩, e, Fin.ofNat 16 (8 * f.r + bits modrm 3 3), Fin.ofNat 16 f.vvvv, src2, rest,
    ?_, ?_, hsrc1, fun hm => ?_, hnamed, fun ext hext => hwf ext fun he => ?_⟩
  · have := (hext hm).1
    omega
  · rw [hdst, hlow, hbytes, List.cons_append, List.cons_append]
  · omega
  · have := hmode hm
    have := (hext hm).2
    omega
  · have := hext he
    omega

end Vex

end Sys2Proof.Laws
end

section
/-! The instructions of each shape: class, prefixes, well-formedness, spellings and length; from accepted bytes to a form of the
VEX shape (R69, R70). -/

namespace Sys2Proof.Laws

/-! ### VEX forms -/

section Vex

variable (e : Elem) (l : Nat) (p : VexPrefix) (dst src1 : Fin 16) (src2 : Rm 16)

theorem vexInstr_isLegacy : (vexInstr e l p dst src1 src2).isLegacy = false := by
  cases e <;> cases l <;> rfl

theorem vexInstr_addr32 : (vexInstr e l p dst src1 src2).addr32 = p.addr32 := by
  cases e <;> cases l <;> rfl

theorem vexInstr_wellFormed (mode64 : Bool) :
    (vexInstr e l p dst src1 src2).wellFormed mode64 = vexWellFormed mode64 p dst src1 src2 := by
  cases e <;> cases l <;> rfl

theorem vexInstr_len : (vexInstr e l p dst src1 src2).len = vexLen p src2 := by
  cases e <;> cases l <;> rfl

theorem vexInstr_bodies (mode64 : Bool) (hl : l < 2) :
    (vexInstr e l p dst src1 src2).bodies mode64 = vexBodies mode64 e l p dst src1 src2 := by
  match l, hl with
  | 0, _ => cases e <;> rfl
  | 1, _ => cases e <;> rfl

theorem vexInstr_udBodies (mode64 : Bool) : (vexInstr e l p dst src1 src2).udBodies mode64 = [] := by
  cases e <;> cases l <;> rfl

end Vex

theorem addr32_of_prefixRefusals {mode64 : Bool} {P : List Byte} (h : firstRefusal (prefixRefusals mode64 P) = none) :
    P.contains 0x67 = true → mode64 = true := by
  simp only [firstRefusal_eq_none, prefixRefusals, List.forall_mem_cons, Bool.and_eq_false_imp, Bool.not_eq_false'] at h
  exact h.2.2.1

section

variable {mode64 : Bool} {P : List Byte} {rex : Option Byte}

theorem admits_vexInstr {e : Elem} {l : Nat} {three : Bool} {dst src1 : Fin 16} {src2 : Rm 16}
    (h : firstRefusal (prefixRefusals mode64 P) = none) :
    Admits mode64 P (vexInstr e l ⟨P.contains 0x67, three⟩ dst src1 src2) where
  unrefused := by simpa [Instr.refusals, vexInstr_isLegacy] using h
  addr32 := (vexInstr_addr32 e l ⟨P.contains 0x67, three⟩ dst src1 src2).symm
  row66 := by simp [vexInstr_isLegacy]

/-- Accepted bytes after the two bytes `C5 v0` are a form. -/
theorem shape_of_vexTwo {v0 : Byte} {bs : List Byte} (hopens : opensVex mode64 v0 = true)
    (h : (decodeVex mode64 P rex (vexTwo v0) bs).accepted = true) :
    ∃ code rest i ud, 0xC5 :: v0 :: bs = code ++ rest ∧ Shape mode64 rex code i ud ∧ Admits mode64 P i := by
  have hr : barred v0 7 1 < 2 := barred_lt v0 7 1
  have hl : bits v0 2 1 < 2 := bits_lt v0 2 1
  have hopen : mode64 = false → barred v0 7 1 = 0 := fun hm => by
    have := opensVex_eq_true.1 hopens hm
    simp only [bits, barred] at this ⊢
    omega
  obtain ⟨⟨hprefixes, hpp, -, -⟩, e, dst, src1, src2, rest, rfl, hdst, hsrc1, hlow, -, hwf⟩ :=
    decodeVex_operands (f := vexTwo v0) hr Nat.zero_lt_two Nat.zero_lt_two (barred_lt v0 3 4) hopen h
  refine ⟨vexBody e (bits v0 2 1) false dst src1 src2 0 src2.xBit src2.bBit, rest, _, false, ?_,
    .vex (w := 0) (p := ⟨P.contains 0x67, false⟩) hl (by decide) ?_ (mem_extBits mode64 src2), admits_vexInstr hprefixes⟩
  · have hv0 := vexTwo_bytes hpp
    have hr0 : dst.val / 8 = barred v0 7 1 := hdst
    have hv : src1.val = barred v0 3 4 := hsrc1
    simp only [vexBody, Bool.false_eq_true, if_false, hr0, hv, ← hv0, List.cons_append, List.nil_append]
  · exact (vexWellFormed_iff ..).2
      ⟨addr32_of_prefixRefusals hprefixes, hlow, by rw [Bool.and_false]; exact hwf _ fun _ => ⟨rfl, rfl⟩⟩

/-- Accepted bytes after the three bytes `C4 v1 v2` are a form. -/
theorem shape_of_vexThree {v1 v2 : Byte} {bs : List Byte} (hopens : opensVex mode64 v1 = true)
    (h : (decodeVex mode64 P rex (vexThree v1 v2) bs).accepted = true) :
    ∃ code rest i ud, 0xC4 :: v1 :: v2 :: bs = code ++ rest ∧ Shape mode64 rex code i ud ∧ Admits mode64 P i := by
  have hr : barred v1 7 1 < 2 := barred_lt v1 7 1
  have hx : barred v1 6 1 < 2 := barred_lt v1 6 1
  have hb : barred v1 5 1 < 2 := barred_lt v1 5 1
  have hl : bits v2 2 1 < 2 := bits_lt v2 2 1
  have hw : bits v2 7 1 < 2 := bits_lt v2 7 1
  have hopen : mode64 = false → barred v1 7 1 = 0 ∧ barred v1 6 1 = 0 := fun hm => by
    have := opensVex_eq_true.1 hopens hm
    simp only [bits, barred] at this ⊢
    omega
  obtain ⟨⟨hprefixes, hpp, hmap, hb0⟩, e, dst, src1, src2, rest, rfl, hdst, hsrc1, hlow, hnamed, hwf⟩ :=
    decodeVex_operands (f := vexThree v1 v2) hr hx hb (barred_lt v2 3 4) (fun hm => (hopen hm).1) h
  have hsrc : src2.wellFormed mode64 = true := hwf _ fun hm => ⟨(hopen hm).2, hb0 hm⟩
  have hxb : (barred v1 6 1, barred v1 5 1) ∈ src2.extBits mode64 :=
    (mem_extBits_iff_namedBy (by decide) hsrc).2
      ⟨hx, hb, fun hm => ⟨(hopen hm).2, hb0 hm⟩, by rw [extHigh_eq (by decide)]; exact hnamed⟩
  refine ⟨vexBody e (bits v2 2 1) true dst src1 src2 (bits v2 7 1) (barred v1 6 1) (barred v1 5 1), rest, _, false, ?_,
    .vex (p := ⟨P.contains 0x67, true⟩) hl hw ?_ hxb, admits_vexInstr hprefixes⟩
  · obtain ⟨hv1, hv2⟩ := vexThree_bytes hmap hpp
    have hr0 : dst.val / 8 = barred v1 7 1 := hdst
    have hv : src1.val = barred v2 3 4 := hsrc1
    simp only [vexBody, if_true, hr0, hv, ← hv1, ← hv2, List.cons_append, List.nil_append]
  · exact (vexWellFormed_iff ..).2 ⟨addr32_of_prefixRefusals hprefixes, hlow, by rw [Bool.and_true]; exact hsrc⟩

end

end Sys2Proof.Laws
end

section
/-! The legacy shape (R68): what decoding answers on the bytes of a form, and from accepted bytes to a form. -/

namespace Sys2Proof.Laws

section Forms

variable (e : Elem) (p : LegacyPrefix)

theorem mmInstr_isLegacy (dst : Fin 8) (src : Rm 8) : (mmInstr e p dst src).isLegacy = true := by cases e <;> rfl

theorem mmInstr_formClass (dst : Fin 8) (src : Rm 8) : (mmInstr e p dst src).formClass = .mmx := by cases e <;> rfl

theorem mmInstr_addr32 (dst : Fin 8) (src : Rm 8) : (mmInstr e p dst src).addr32 = p.addr32 := by cases e <;> rfl

theorem mmInstr_wellFormed (dst : Fin 8) (src : Rm 8) (mode64 : Bool) :
    (mmInstr e p dst src).wellFormed mode64 = legacyWellFormed mode64 p dst src := by cases e <;> rfl

theorem mmInstr_bodies (dst : Fin 8) (src : Rm 8) (mode64 : Bool) :
    (mmInstr e p dst src).bodies mode64 = legacyBodies mode64 e p dst.val src := by cases e <;> rfl

theorem mmInstr_len (dst : Fin 8) (src : Rm 8) : (mmInstr e p dst src).len = mmLen p src := by cases e <;> rfl

theorem xmmInstr_isLegacy (dst : Fin 16) (src : Rm 16) : (xmmInstr e p dst src).isLegacy = true := by cases e <;> rfl

theorem xmmInstr_formClass (dst : Fin 16) (src : Rm 16) : (xmmInstr e p dst src).formClass = .sse2 := by cases e <;> rfl

theorem xmmInstr_addr32 (dst : Fin 16) (src : Rm 16) : (xmmInstr e p dst src).addr32 = p.addr32 := by cases e <;> rfl

theorem xmmInstr_wellFormed (dst : Fin 16) (src : Rm 16) (mode64 : Bool) :
    (xmmInstr e p dst src).wellFormed mode64 = legacyWellFormed mode64 p dst src := by cases e <;> rfl

theorem xmmInstr_bodies (dst : Fin 16) (src : Rm 16) (mode64 : Bool) :
    (xmmInstr e p dst src).bodies mode64 = legacyBodies mode64 e p dst.val src := by cases e <;> rfl

theorem xmmInstr_len (dst : Fin 16) (src : Rm 16) : (xmmInstr e p dst src).len = xmmLen p src := by cases e <;> rfl

end Forms

section

variable {mode64 : Bool} {P : List Byte} {rex : Option Byte}

theorem decodeLegacyOperands_xmm {isRex : Bool} {rexBits modrm : Byte} {bs rest : List Byte} (e : Elem) {src : Rm 16}
    (h66 : P.contains 0x66 = true)
    (hread : readRm 16 modrm (8 * bits rexBits 0 1 + bits modrm 0 3) (bits rexBits 1 1) (bits rexBits 0 1) bs
      = some (src, rest)) :
    decodeLegacyOperands P isRex rexBits e modrm bs = answer (P.contains 0xF0)
      (xmmInstr e ⟨P.contains 0x67, isRex⟩ (Fin.ofNat 16 (8 * bits rexBits 2 1 + bits modrm 3 3)) src) 1 rest := by
  simp only [decodeLegacyOperands, h66, hread, if_true, answer]

theorem decodeLegacyOperands_mm {isRex : Bool} {rexBits modrm : Byte} {bs rest : List Byte} (e : Elem) {src : Rm 8}
    (h66 : P.contains 0x66 = false) (hrex : ¬ (bits modrm 6 2 = 3 ∧ bits rexBits 0 1 = 1))
    (hread : readRm 8 modrm (bits modrm 0 3) (bits rexBits 1 1) (bits rexBits 0 1) bs = some (src, rest)) :
    decodeLegacyOperands P isRex rexBits e modrm bs = answer (P.contains 0xF0)
      (mmInstr e ⟨P.contains 0x67, isRex⟩ (Fin.ofNat 8 (bits modrm 3 3)) src) 1 rest := by
  simp only [decodeLegacyOperands, h66, hrex, hread, if_false, Bool.false_eq_true, answer]

/-- Bytes of the legacy shape up to ModRM. -/
theorem decodeLegacy_modrm (e : Elem) (modrm : Byte) (bs : List Byte) :
    decodeLegacy mode64 P rex (e.opcode :: modrm :: bs)
      = (decodeLegacyOperands P rex.isSome (rex.getD 0) e modrm bs).orRefused (legacyRefusals mode64 P (rex.getD 0)) := by
  cases h : firstRefusal (legacyRefusals mode64 P (rex.getD 0)) <;>
    simp only [decodeLegacy, elemOf_opcode, Decoded.orRefused, h]

theorem decodeShape_0F (bs : List Byte) : decodeShape mode64 P rex (0x0F :: bs) = decodeLegacy mode64 P rex bs := rfl

theorem rexField_isSome (isRex : Bool) (dst x b : Nat) : (rexField isRex dst x b).isSome = isRex := by
  cases isRex <;> rfl

/-- The bytes of an MMX form, in any of its spellings. -/
theorem decodeShape_mm {e : Elem} {p : LegacyPrefix} {dst : Fin 8} {src : Rm 8} {x b : Nat}
    (hwf : legacyWellFormed mode64 p dst src = true) (hxb : (x, b) ∈ src.extBits mode64) (h66 : P.contains 0x66 = false)
    (tail : List Byte) :
    decodeShape mode64 P (rexField p.rex dst x b) (0x0F :: e.opcode :: src.bytes (dst.val % 8) ++ tail)
      = (answer (P.contains 0xF0) (mmInstr e ⟨P.contains 0x67, p.rex⟩ dst src) 1 tail).orRefused
        (legacyPrefixRefusals mode64 P) := by
  have hdst : dst.val < 8 := dst.isLt
  obtain ⟨-, -, -, hsrc⟩ := (legacyWellFormed_iff ..).1 hwf
  obtain ⟨hw, hr, hnamed⟩ := bits_rexField_of_spelling (by decide) (hdst.trans (by decide)) hwf hxb
  obtain ⟨modrm, code, hbytes, hfield, hmod, hread⟩ :=
    readRm_bytes (Nat.mod_lt dst.val (by decide : 0 < 8)) hsrc (namedBy_of_eight hnamed) tail
  rw [Nat.zero_add] at hread
  have hrexOk : ¬ (bits modrm 6 2 = 3 ∧ bits ((rexField p.rex dst x b).getD 0) 0 1 = 1) := by
    rintro ⟨h3, hB⟩
    obtain ⟨r, rfl⟩ := hmod h3
    have hr : 8 * bits ((rexField p.rex dst x b).getD 0) 0 1 + r.val % 8 = r.val := hnamed
    omega
  have hreg : Fin.ofNat 8 (bits modrm 3 3) = dst := ofNat_eq_of_eq_val (hfield.trans (Nat.mod_eq_of_lt hdst))
  rw [hbytes, List.cons_append, List.cons_append, List.cons_append, decodeShape_0F, decodeLegacy_modrm,
    decodeLegacyOperands_mm e h66 hrexOk hread, hreg, rexField_isSome]
  exact orRefused_congr (firstRefusal_legacyRefusals mode64 P hw fun _ => hr.trans (Nat.div_eq_of_lt hdst))

/-- The bytes of a legacy SSE2 form, in any of its spellings. -/
theorem decodeShape_xmm {e : Elem} {p : LegacyPrefix} {dst : Fin 16} {src : Rm 16} {x b : Nat}
    (hwf : legacyWellFormed mode64 p dst src = true) (hxb : (x, b) ∈ src.extBits mode64) (h66 : P.contains 0x66 = true)
    (tail : List Byte) :
    decodeShape mode64 P (rexField p.rex dst x b) (0x0F :: e.opcode :: src.bytes (dst.val % 8) ++ tail)
      = (answer (P.contains 0xF0) (xmmInstr e ⟨P.contains 0x67, p.rex⟩ dst src) 1 tail).orRefused
        (legacyPrefixRefusals mode64 P) := by
  obtain ⟨-, -, -, hsrc⟩ := (legacyWellFormed_iff ..).1 hwf
  obtain ⟨hw, hr, hnamed⟩ := bits_rexField_of_spelling (by decide) dst.isLt hwf hxb
  obtain ⟨modrm, code, hbytes, hfield, -, hread⟩ :=
    readRm_bytes (Nat.mod_lt dst.val (by decide : 0 < 8)) hsrc hnamed tail
  have hreg : Fin.ofNat 16 (8 * bits ((rexField p.rex dst x b).getD 0) 2 1 + bits modrm 3 3) = dst :=
    ofNat_eq_of_eq_val (by rw [hr, hfield]; exact Nat.div_add_mod _ _)
  rw [hbytes, List.cons_append, List.cons_append, List.cons_append, decodeShape_0F, decodeLegacy_modrm,
    decodeLegacyOperands_xmm e h66 hread, hreg, rexField_isSome]
  exact orRefused_congr (firstRefusal_legacyRefusals mode64 P hw fun hno => absurd (hno.symm.trans h66) Bool.false_ne_true)

/-! ### From accepted bytes to a form -/

theorem decodeLegacy_accepted {bs : List Byte} (h : (decodeLegacy mode64 P rex bs).accepted = true) :
    firstRefusal (legacyRefusals mode64 P (rex.getD 0)) = none
      ∧ ∃ (e : Elem) (modrm : Byte) (code : List Byte), bs = e.opcode :: modrm :: code
        ∧ (decodeLegacyOperands P rex.isSome (rex.getD 0) e modrm code).accepted = true := by
  match bs with
  | [] => exact absurd h (by simp [decodeLegacy, not_accepted_moreUnless])
  | op :: bs =>
    rw [decodeLegacy] at h
    split at h
    · cases h
    · next e he =>
      cases elemOf_eq_some he
      split at h
      · cases h
      · next hnone =>
        refine ⟨hnone, ?_⟩
        match bs with
        | [] => cases h
        | modrm :: code => exact ⟨e, modrm, code, rfl, h⟩

theorem decodeLegacyOperands_accepted {isRex : Bool} {rexBits modrm : Byte} {e : Elem} {bs : List Byte}
    (h : (decodeLegacyOperands P isRex rexBits e modrm bs).accepted = true) :
    (P.contains 0x66 = true ∧ ∃ src rest, readRm 16 modrm (8 * bits rexBits 0 1 + bits modrm 0 3) (bits rexBits 1 1)
        (bits rexBits 0 1) bs = some (src, rest))
      ∨ (P.contains 0x66 = false ∧ ¬ (bits modrm 6 2 = 3 ∧ bits rexBits 0 1 = 1)
        ∧ ∃ src rest, readRm 8 modrm (bits modrm 0 3) (bits rexBits 1 1) (bits rexBits 0 1) bs = some (src, rest)) := by
  unfold decodeLegacyOperands at h
  simp only at h
  split at h
  · next h66 =>
    split at h
    · next src rest hread => exact .inl ⟨h66, src, rest, hread⟩
    · cases h
  · next h66 =>
    split at h
    · cases h
    · next hrex =>
      split at h
      · next src rest hread => exact .inr ⟨by simpa using h66, hrex, src, rest, hread⟩
      · cases h

/-- A REX byte with W = 0 is one that a spelling has, and so is its absence; its bits name the operand's registers. -/
theorem exists_rexField {n dst : Nat} {src : Rm n} (hn : n ≤ 16) (hrex : ∀ b ∈ rex, mode64 = true ∧ bits b 4 4 = 4)
    (hw : bits (rex.getD 0) 3 1 ≠ 1) (hdst : dst / 8 = bits (rex.getD 0) 2 1)
    (hnamed : src.NamedBy (8 * bits (rex.getD 0) 0 1) (bits (rex.getD 0) 1 1) (bits (rex.getD 0) 0 1)) :
    ∃ x b, rex = rexField rex.isSome dst x b ∧ (x, b) ∈ src.extBits mode64 := by
  cases rex with
  | none => exact ⟨_, _, rfl, mem_extBits mode64 src⟩
  | some r =>
    obtain ⟨rfl, h4⟩ := hrex r rfl
    refine ⟨bits r 1 1, bits r 0 1, ?_, ?_⟩
    · have hr := r.isLt
      have hbyte : r = BitVec.ofNat 8 (0x40 + 4 * bits r 2 1 + 2 * bits r 1 1 + bits r 0 1) := by
        apply BitVec.eq_of_toNat_eq
        simp only [Option.getD_some, bits, BitVec.toNat_ofNat] at h4 hw ⊢
        omega
      rw [Option.getD_some] at hdst
      simp only [rexField, Option.isSome_some, if_true, hdst]
      exact congrArg some hbyte
    · exact (mem_extBits_true_iff (hn.trans (by decide))).2 ⟨bits_lt r 1 1, bits_lt r 0 1, by
        rw [extHigh_eq hn]
        exact hnamed⟩

theorem prefixRefusals_of_legacy (h : firstRefusal (legacyPrefixRefusals mode64 P) = none) :
    firstRefusal (prefixRefusals mode64 P) = none := by
  rw [firstRefusal_eq_none] at h ⊢
  exact fun c hc => h c (List.mem_cons_of_mem _ hc)

theorem mode64_of_rex (hrex : ∀ b ∈ rex, mode64 = true ∧ bits b 4 4 = 4) (h : rex.isSome = true) : mode64 = true := by
  cases rex with
  | none => cases h
  | some r => exact (hrex r rfl).1

theorem bits_of_no_rex (h : rex.isSome = false) (lo : Nat) : bits (rex.getD 0) lo 1 = 0 := by
  cases rex with
  | none => simp [bits]
  | some r => cases h

theorem admits_mmInstr {e : Elem} {isRex : Bool} {dst : Fin 8} {src : Rm 8}
    (h : firstRefusal (legacyPrefixRefusals mode64 P) = none) (h66 : P.contains 0x66 = false) :
    Admits mode64 P (mmInstr e ⟨P.contains 0x67, isRex⟩ dst src) where
  unrefused := by simpa only [Instr.refusals, mmInstr_isLegacy, if_true] using h
  addr32 := (mmInstr_addr32 e ⟨P.contains 0x67, isRex⟩ dst src).symm
  row66 _ := by rw [mmInstr_formClass, h66]; rfl

theorem admits_xmmInstr {e : Elem} {isRex : Bool} {dst : Fin 16} {src : Rm 16}
    (h : firstRefusal (legacyPrefixRefusals mode64 P) = none) (h66 : P.contains 0x66 = true) :
    Admits mode64 P (xmmInstr e ⟨P.contains 0x67, isRex⟩ dst src) where
  unrefused := by simpa only [Instr.refusals, xmmInstr_isLegacy, if_true] using h
  addr32 := (xmmInstr_addr32 e ⟨P.contains 0x67, isRex⟩ dst src).symm
  row66 _ := by rw [xmmInstr_formClass, h66]; rfl

section Accepted

variable {e : Elem} {modrm : Byte} {bs rest : List Byte} (hrex : ∀ b ∈ rex, mode64 = true ∧ bits b 4 4 = 4)
  (hnone : firstRefusal (legacyRefusals mode64 P (rex.getD 0)) = none)

include hrex hnone

/-- With 66 the r/m operand that was read makes an SSE2 form. -/
theorem shape_of_xmm {src : Rm 16} (h66 : P.contains 0x66 = true)
    (hread : readRm 16 modrm (8 * bits (rex.getD 0) 0 1 + bits modrm 0 3) (bits (rex.getD 0) 1 1) (bits (rex.getD 0) 0 1) bs
      = some (src, rest)) :
    ∃ code rest i ud, 0x0F :: e.opcode :: modrm :: bs = code ++ rest ∧ Shape mode64 rex code i ud ∧ Admits mode64 P i := by
  obtain ⟨hprefixes, hw, -⟩ := (legacyRefusals_eq_none mode64 P).1 hnone
  have hR : bits (rex.getD 0) 2 1 < 2 := bits_lt _ 2 1
  have hB : bits (rex.getD 0) 0 1 < 2 := bits_lt _ 0 1
  have hreg : bits modrm 3 3 < 8 := bits_lt modrm 3 3
  obtain ⟨⟨tail, rfl, hbytes⟩, hnamed, hwf⟩ := readRm_eq_some (by omega) (by omega) (bits_lt _ 1 1) hB hread
  have hdst := val_ofNat_extended hR hreg
  have hdiv : (Fin.ofNat 16 (8 * bits (rex.getD 0) 2 1 + bits modrm 3 3)).val / 8 = bits (rex.getD 0) 2 1 := by omega
  have hlow : (Fin.ofNat 16 (8 * bits (rex.getD 0) 2 1 + bits modrm 3 3)).val % 8 = bits modrm 3 3 := by omega
  obtain ⟨x, b, hfield, hxb⟩ := exists_rexField (by decide) hrex hw hdiv hnamed
  refine ⟨_, rest, _, false, ?_, .xmm (e := e) (p := ⟨P.contains 0x67, rex.isSome⟩) ?_ hxb hfield,
    admits_xmmInstr hprefixes h66⟩
  · rw [hlow, hbytes]
    rfl
  · have hzero := bits_of_no_rex (rex := rex)
    refine (legacyWellFormed_iff ..).2 ⟨addr32_of_prefixRefusals (prefixRefusals_of_legacy hprefixes), mode64_of_rex hrex,
      fun hno => ?_, hwf _ fun hno => ⟨by rw [hzero hno], hzero hno 1, hzero hno 0⟩⟩
    have := hzero hno 2
    omega

/-- Without 66 the r/m operand that was read makes an MMX form. -/
theorem shape_of_mm {src : Rm 8} (h66 : P.contains 0x66 = false) (hmm : ¬ (bits modrm 6 2 = 3 ∧ bits (rex.getD 0) 0 1 = 1))
    (hread : readRm 8 modrm (bits modrm 0 3) (bits (rex.getD 0) 1 1) (bits (rex.getD 0) 0 1) bs = some (src, rest)) :
    ∃ code rest i ud, 0x0F :: e.opcode :: modrm :: bs = code ++ rest ∧ Shape mode64 rex code i ud ∧ Admits mode64 P i := by
  obtain ⟨hprefixes, hw, hR⟩ := (legacyRefusals_eq_none mode64 P).1 hnone
  have hRlt : bits (rex.getD 0) 2 1 < 2 := bits_lt _ 2 1
  have hB : bits (rex.getD 0) 0 1 < 2 := bits_lt _ 0 1
  have hreg : bits modrm 3 3 < 8 := bits_lt modrm 3 3
  rw [← Nat.zero_add (bits modrm 0 3)] at hread
  obtain ⟨⟨tail, rfl, hbytes⟩, hnamed, hwf⟩ := readRm_eq_some (by omega) (by omega) (bits_lt _ 1 1) hB hread
  have hdst : (Fin.ofNat 8 (bits modrm 3 3)).val = bits modrm 3 3 := val_ofNat_of_lt hreg
  have hdiv : (Fin.ofNat 8 (bits modrm 3 3)).val / 8 = bits (rex.getD 0) 2 1 := by
    have := hR h66
    omega
  have hlow : (Fin.ofNat 8 (bits modrm 3 3)).val % 8 = bits modrm 3 3 := by omega
  have hnamed8 : src.NamedBy (8 * bits (rex.getD 0) 0 1) (bits (rex.getD 0) 1 1) (bits (rex.getD 0) 0 1) := by
    cases src with
    | mem m => exact hnamed
    | reg r =>
      have hfields : fieldByte 3 (bits modrm 3 3) (r.val % 8) = modrm := (List.cons.inj hbytes).1
      have hmod := (bits_fieldByte (hi := 3) (by decide) hreg (Nat.mod_lt r.val (by decide : 0 < 8))).1
      rw [hfields] at hmod
      have hB0 : bits (rex.getD 0) 0 1 = 0 := by
        have : bits (rex.getD 0) 0 1 ≠ 1 := fun h1 => hmm ⟨hmod, h1⟩
        omega
      rw [hB0]
      exact hnamed
  obtain ⟨x, b, hfield, hxb⟩ := exists_rexField (by decide) hrex hw hdiv hnamed8
  refine ⟨_, rest, _, false, ?_, .mm (e := e) (p := ⟨P.contains 0x67, rex.isSome⟩) ?_ hxb hfield,
    admits_mmInstr hprefixes h66⟩
  · rw [hlow, hbytes]
    rfl
  · have hzero := bits_of_no_rex (rex := rex)
    exact (legacyWellFormed_iff ..).2 ⟨addr32_of_prefixRefusals (prefixRefusals_of_legacy hprefixes), mode64_of_rex hrex,
      fun _ => (Fin.ofNat 8 (bits modrm 3 3)).isLt, hwf _ fun hno => ⟨rfl, hzero hno 1, hzero hno 0⟩⟩

end Accepted

/-- Accepted bytes after 0F are a form. -/
theorem shape_of_legacy {bs : List Byte} (hrex : ∀ b ∈ rex, mode64 = true ∧ bits b 4 4 = 4)
    (h : (decodeLegacy mode64 P rex bs).accepted = true) :
    ∃ code rest i ud, 0x0F :: bs = code ++ rest ∧ Shape mode64 rex code i ud ∧ Admits mode64 P i := by
  obtain ⟨hnone, e, modrm, code, rfl, hoperands⟩ := decodeLegacy_accepted h
  rcases decodeLegacyOperands_accepted hoperands with ⟨h66, src, rest, hread⟩ | ⟨h66, hmm, src, rest, hread⟩
  · exact shape_of_xmm hrex hnone h66 hread
  · exact shape_of_mm hrex hnone h66 hmm hread

end

end Sys2Proof.Laws
end

section
/-! The EVEX shape (R71, R72): what decoding answers on the bytes of a form, and from accepted bytes to a form. -/

namespace Sys2Proof.Laws

section Forms

variable (e : Elem) (ll bc : Nat) (a : Bool) (dst : Fin 8) (mask : Option (Fin 8)) (src1 : Fin 32) (src2 : Rm 32)

theorem broadcastRm_wellFormed (b ext : Bool) : (broadcastRm b src2).wellFormed ext = src2.wellFormed ext := by
  cases src2 <;> cases b <;> rfl

theorem broadcastRm_len (b : Bool) : (broadcastRm b src2).len = src2.len := by
  cases src2 <;> cases b <;> rfl

/-- The plain operand and EVEX.b, put together and taken apart: EVEX.b is 1 with a memory operand only. -/
theorem split_broadcastRm {src2 : Rm 32} (hbc : bc < 2) (h : bc = 1 → ∃ m, src2 = .mem m) :
    (broadcastRm (bc == 1) src2).split = (src2, bc) := by
  match bc, hbc with
  | 0, _ => cases src2 <;> rfl
  | 1, _ =>
    obtain ⟨m, rfl⟩ := h rfl
    rfl

theorem broadcastRm_split (r : RmBcst) : broadcastRm (r.split.2 == 1) r.split.1 = r := by cases r <;> rfl

theorem split_spec (r : RmBcst) : r.split.2 < 2 ∧ (r.split.2 = 1 → ∃ m, r.split.1 = .mem m) := by
  cases r <;> simp [RmBcst.split]

theorem evexForm_isLegacy : (evexForm e ll bc a dst mask src1 src2).isLegacy = false := by
  cases e <;> rcases ll with _ | _ | ll <;> rfl

theorem evexForm_addr32 : (evexForm e ll bc a dst mask src1 src2).addr32 = a := by
  cases e <;> rcases ll with _ | _ | ll <;> rfl

theorem evexForm_len : (evexForm e ll bc a dst mask src1 src2).len = evexLen a src2.len := by
  cases e with
  | dword => rw [← broadcastRm_len src2 (bc == 1)]; rcases ll with _ | _ | ll <;> rfl
  | byte => rcases ll with _ | _ | ll <;> rfl
  | word => rcases ll with _ | _ | ll <;> rfl

theorem evexForm_wellFormed (mode64 : Bool) :
    (evexForm e ll bc a dst mask src1 src2).wellFormed mode64
      = (evexWellFormed mode64 a mask src1 && src2.wellFormed mode64) := by
  cases e with
  | dword => rw [← broadcastRm_wellFormed src2 (bc == 1)]; rcases ll with _ | _ | ll <;> rfl
  | byte => rcases ll with _ | _ | ll <;> rfl
  | word => rcases ll with _ | _ | ll <;> rfl

/-- EVEX.b as a spelling of the form has it. -/
def formBc (e : Elem) (bc : Nat) : Nat :=
  match e with
  | .dword => bc
  | .byte | .word => 0

theorem evexForm_bodies {src2 : Rm 32} (mode64 : Bool) (hll : ll < 3) (hbc : bc < 2)
    (hround : e = .dword → bc = 1 → ∃ m, src2 = .mem m) :
    (evexForm e ll bc a dst mask src1 src2).bodies mode64 = evexBodies mode64 e ll (formBc e bc) dst mask src1 src2 := by
  cases e with
  | dword =>
    have hsplit := split_broadcastRm bc hbc (hround rfl)
    match ll, hll with
    | 0, _ => simp only [evexForm, evexDInstr, Instr.bodies, hsplit, formBc]
    | 1, _ => simp only [evexForm, evexDInstr, Instr.bodies, hsplit, formBc]
    | 2, _ => simp only [evexForm, evexDInstr, Instr.bodies, hsplit, formBc]
  | byte =>
    match ll, hll with
    | 0, _ => rfl
    | 1, _ => rfl
    | 2, _ => rfl
  | word =>
    match ll, hll with
    | 0, _ => rfl
    | 1, _ => rfl
    | 2, _ => rfl

end Forms

theorem evexWellFormed_iff (mode64 a : Bool) (mask : Option (Fin 8)) (src1 : Fin 32) :
    evexWellFormed mode64 a mask src1 = true ↔
      (a = true → mode64 = true) ∧ mask ≠ some 0 ∧ (mode64 = false → src1.val < 8) := by
  cases a <;> cases mode64 <;> simp [evexWellFormed, regOk]

/-- The writemask field and the writemask that it names: K0 is none (R73). -/
theorem writemaskField_val {mask : Option (Fin 8)} (h : mask ≠ some 0) : writemaskField (mask.getD 0).val = mask := by
  cases mask with
  | none => rfl
  | some k =>
    have hk : k.val ≠ 0 := fun h0 => h (congrArg some (Fin.ext h0))
    simp [writemaskField, hk]

theorem writemaskField_spec {aaa : Nat} (h : aaa < 8) :
    writemaskField aaa ≠ some 0 ∧ ((writemaskField aaa).getD 0).val = aaa := by
  unfold writemaskField
  split
  · next h0 => exact ⟨nofun, h0.symm⟩
  · next h0 =>
    refine ⟨fun hk => h0 ?_, Nat.mod_eq_of_lt h⟩
    have hval := congrArg Fin.val (Option.some.inj hk)
    rwa [val_ofNat_of_lt h] at hval

theorem evexInstr_eq (a : Bool) (p1 p2 modrm : Byte) (e : Elem) (src2 : Rm 32) :
    evexInstr a p1 p2 modrm e src2
      = evexForm e (bits p2 5 2) (bits p2 4 1) a (Fin.ofNat 8 (bits modrm 3 3)) (writemaskField (bits p2 0 3))
        (Fin.ofNat 32 (16 * barred p2 3 1 + barred p1 3 4)) src2 := by
  cases e <;> rfl

theorem evexUd_eq (e : Elem) (p1 p2 : Byte) : evexUd e p1 p2 = evexBodyUd e (bits p1 7 1) (bits p2 4 1) := by
  cases e <;> rfl

section

variable {mode64 : Bool} {P : List Byte} {rex : Option Byte}

/-- EVEX.b with the opcode 76 and a register operand (R73). -/
def evexRound (e : Elem) (p2 modrm : Byte) : Bool := e == .dword && bits p2 4 1 == 1 && bits modrm 6 2 == 3

theorem decodeShape_evex {p0 : Byte} (h : opensVex mode64 p0 = true) (p1 p2 : Byte) (bs : List Byte) :
    decodeShape mode64 P rex (0x62 :: p0 :: p1 :: p2 :: bs) = decodeEvex mode64 P rex p0 p1 p2 bs := by
  simp [decodeShape, h]

theorem decodeEvex_of_read {p0 p1 p2 modrm : Byte} {bs rest : List Byte} (e : Elem) {src2 : Rm 32}
    (hread : readRm 32 modrm (16 * barred p0 6 1 + 8 * barred p0 5 1 + bits modrm 0 3) (barred p0 6 1) (barred p0 5 1) bs
      = some (src2, rest)) :
    decodeEvex mode64 P rex p0 p1 p2 (e.opcode :: modrm :: bs)
      = (answer (strayPrefixes P rex != 0 || evexUd e p1 p2) (evexInstr (P.contains 0x67) p1 p2 modrm e src2)
          (strayPrefixes P rex) rest).orRefused (evexRefusals mode64 P p0 p1 p2 (evexRound e p2 modrm)) := by
  simp only [decodeEvex, elemOf_opcode, hread, Decoded.orRefused, answer, evexRound, List.head?_cons, Option.any_some]
  cases firstRefusal (evexRefusals mode64 P p0 p1 p2 (e == .dword && bits p2 4 1 == 1 && bits modrm 6 2 == 3)) with
  | some r => rfl
  | none => cases evexUd e p1 p2 <;> by_cases hstray : strayPrefixes P rex = 0 <;> simp [hstray]

theorem decodeEvex_accepted {p0 p1 p2 : Byte} {bs : List Byte} (h : (decodeEvex mode64 P rex p0 p1 p2 bs).accepted = true) :
    ∃ (e : Elem) (modrm : Byte) (code : List Byte) (src2 : Rm 32) (rest : List Byte), bs = e.opcode :: modrm :: code
      ∧ firstRefusal (evexRefusals mode64 P p0 p1 p2 (evexRound e p2 modrm)) = none
      ∧ readRm 32 modrm (16 * barred p0 6 1 + 8 * barred p0 5 1 + bits modrm 0 3) (barred p0 6 1) (barred p0 5 1) code
        = some (src2, rest) := by
  match bs with
  | [] => exact absurd h (by simp [decodeEvex, not_accepted_moreUnless])
  | op :: bs =>
    rw [decodeEvex] at h
    split at h
    · cases h
    · next e he =>
      cases elemOf_eq_some he
      split at h
      · cases h
      · next hnone =>
        match bs with
        | [] => cases h
        | modrm :: code =>
          simp only at h
          split at h
          · exact absurd h (by simp [not_accepted_moreUnless])
          · next src2 rest hread => exact ⟨e, modrm, code, src2, rest, rfl, hnone, hread⟩

/-! ### The fields of the EVEX bytes, as they are written (R71, R72) -/

theorem bits_evexP0 {x b : Nat} (hx : x < 2) (hb : b < 2) {p0 : Byte}
    (h : p0 = BitVec.ofNat 8 (128 + 64 * (1 - x) + 32 * (1 - b) + 16 + 1)) :
    bits p0 2 2 = 0 ∧ bits p0 0 2 = 1 ∧ bits p0 7 1 = 1 ∧ bits p0 4 1 = 1 ∧ barred p0 6 1 = x ∧ barred p0 5 1 = b := by
  subst h
  simp only [barred, bits, BitVec.toNat_ofNat]
  omega

theorem bits_evexP1 {w : Nat} {src1 : Fin 32} (hw : w < 2) {p1 : Byte}
    (h : p1 = BitVec.ofNat 8 (128 * w + 8 * (15 - src1.val % 16) + 4 + 1)) :
    bits p1 2 1 = 1 ∧ bits p1 0 2 = 1 ∧ barred p1 3 4 = src1.val % 16 ∧ bits p1 7 1 = w := by
  subst h
  simp only [barred, bits, BitVec.toNat_ofNat]
  omega

theorem bits_evexP2 {ll bc : Nat} {mask : Fin 8} {src1 : Fin 32} (hll : ll < 4) (hbc : bc < 2) {p2 : Byte}
    (h : p2 = BitVec.ofNat 8 (32 * ll + 16 * bc + 8 * (1 - src1.val / 16) + mask.val)) :
    bits p2 5 2 = ll ∧ bits p2 4 1 = bc ∧ barred p2 3 1 = src1.val / 16 ∧ bits p2 0 3 = mask.val ∧ bits p2 7 1 = 0 := by
  have hmask := mask.isLt
  have hsrc1 := src1.isLt
  subst h
  simp only [barred, bits, BitVec.toNat_ofNat]
  omega

theorem evexP0_bytes {p0 : Byte} (h2 : bits p0 2 2 = 0) (h0 : bits p0 0 2 = 1) (h7 : bits p0 7 1 ≠ 0) (h4 : bits p0 4 1 ≠ 0) :
    p0 = BitVec.ofNat 8 (128 + 64 * (1 - barred p0 6 1) + 32 * (1 - barred p0 5 1) + 16 + 1) := by
  have hp0 := p0.isLt
  apply BitVec.eq_of_toNat_eq
  simp only [barred, bits, BitVec.toNat_ofNat] at *
  omega

theorem evexP1_bytes {p1 : Byte} (h2 : bits p1 2 1 = 1) (h0 : bits p1 0 2 = 1) :
    p1 = BitVec.ofNat 8 (128 * bits p1 7 1 + 8 * (15 - barred p1 3 4) + 4 + 1) := by
  have hp1 := p1.isLt
  apply BitVec.eq_of_toNat_eq
  simp only [barred, bits, BitVec.toNat_ofNat] at *
  omega

theorem evexP2_bytes {p2 : Byte} (h7 : bits p2 7 1 ≠ 1) :
    p2 = BitVec.ofNat 8 (32 * bits p2 5 2 + 16 * bits p2 4 1 + 8 * (1 - barred p2 3 1) + bits p2 0 3) := by
  have hp2 := p2.isLt
  apply BitVec.eq_of_toNat_eq
  simp only [barred, bits, BitVec.toNat_ofNat] at *
  omega

/-- The bytes of an EVEX form, in any of its spellings, and with what raises #UD in its body. -/
theorem decodeShape_evexBody {e : Elem} {ll bc w x b : Nat} {dst : Fin 8} {mask : Option (Fin 8)} {src1 : Fin 32}
    {src2 : Rm 32} (hll : ll < 3) (hbc : bc < 2) (hw : w < 2) (hmask : mask ≠ some 0)
    (hlow : mode64 = false → src1.val < 8) (hsrc : src2.wellFormed mode64 = true) (hxb : (x, b) ∈ src2.extBits mode64)
    (hround : e = .dword → bc = 1 → ∃ m, src2 = .mem m) (tail : List Byte) :
    decodeShape mode64 P rex (evexBody e ll bc dst mask src1 src2 w x b ++ tail)
      = (answer (strayPrefixes P rex != 0 || evexBodyUd e w bc) (evexForm e ll bc (P.contains 0x67) dst mask src1 src2)
          (strayPrefixes P rex) tail).orRefused (prefixRefusals mode64 P) := by
  obtain ⟨hx, hb, hmode0, hnamed⟩ := (mem_extBits_iff_namedBy (by decide) hsrc).1 hxb
  obtain ⟨modrm, code, hbytes, hfield, hmod, hread⟩ := readRm_bytes dst.isLt hsrc hnamed tail
  generalize hp0 : BitVec.ofNat 8 (128 + 64 * (1 - x) + 32 * (1 - b) + 16 + 1) = p0
  generalize hp1 : BitVec.ofNat 8 (128 * w + 8 * (15 - src1.val % 16) + 4 + 1) = p1
  generalize hp2 : BitVec.ofNat 8 (32 * ll + 16 * bc + 8 * (1 - src1.val / 16) + (mask.getD 0).val) = p2
  obtain ⟨h02, h00, h07, h04, h06, h05⟩ := bits_evexP0 hx hb hp0.symm
  obtain ⟨h12, h10, h13, h17⟩ := bits_evexP1 hw hp1.symm
  obtain ⟨h25, h24, h23, h20, h27⟩ := bits_evexP2 (hll.trans (by decide)) hbc hp2.symm
  have hopens : opensVex mode64 p0 = true := opensVex_eq_true.2 fun hm => by
    obtain ⟨rfl, rfl⟩ := hmode0 hm
    rw [← hp0]
    decide
  have hnotround : evexRound e p2 modrm = false := by
    by_contra hcon
    simp only [evexRound, Bool.not_eq_false, Bool.and_eq_true, beq_iff_eq, h24] at hcon
    obtain ⟨⟨he, hbc1⟩, h3⟩ := hcon
    obtain ⟨m, rfl⟩ := hround he hbc1
    obtain ⟨r, hr⟩ := hmod h3
    cases hr
  have hsrc1 : Fin.ofNat 32 (16 * (src1.val / 16) + src1.val % 16) = src1 := ofNat_eq_of_eq_val (Nat.div_add_mod _ _)
  have hreads : readRm 32 modrm (16 * barred p0 6 1 + 8 * barred p0 5 1 + bits modrm 0 3) (barred p0 6 1) (barred p0 5 1)
      (code ++ tail) = some (src2, tail) := by
    rw [h06, h05]
    exact hread
  simp only [evexBody, hp0, hp1, hp2, hbytes, List.cons_append, List.nil_append]
  rw [decodeShape_evex hopens, decodeEvex_of_read e hreads, evexUd_eq, evexInstr_eq, h25, h24, h23, h20, h13, h17, hfield,
    hsrc1, writemaskField_val hmask, Fin.ofNat_val_eq_self]
  refine orRefused_congr (firstRefusal_evexRefusals mode64 P ⟨h02, h12⟩ ⟨h00, h10⟩ ?_ ?_ hnotround ⟨?_, ?_⟩ fun hm => ?_)
  · omega
  · omega
  · omega
  · omega
  · have h8 := hlow hm
    have h0 := hmode0 hm
    omega

/-- Accepted bytes after the bytes `62 P0 P1 P2` are a form, or a form with what raises #UD in its body. -/
theorem shape_of_evex {p0 p1 p2 : Byte} {bs : List Byte} (hopens : opensVex mode64 p0 = true)
    (h : (decodeEvex mode64 P rex p0 p1 p2 bs).accepted = true) :
    ∃ code rest i ud, 0x62 :: p0 :: p1 :: p2 :: bs = code ++ rest ∧ Shape mode64 rex code i ud ∧ Admits mode64 P i := by
  obtain ⟨e, modrm, code, src2, rest, rfl, hnone, hread⟩ := decodeEvex_accepted h
  obtain ⟨hprefixes, ⟨h02, h12⟩, ⟨h00, h10⟩, h25, h27, hround, ⟨h07, h04⟩, hext⟩ := (evexRefusals_eq_none mode64 P).1 hnone
  have hx : barred p0 6 1 < 2 := barred_lt p0 6 1
  have hb : barred p0 5 1 < 2 := barred_lt p0 5 1
  have hll : bits p2 5 2 < 4 := bits_lt p2 5 2
  have hR : barred p2 3 1 < 2 := barred_lt p2 3 1
  have hV : barred p1 3 4 < 16 := barred_lt p1 3 4
  have hreg : bits modrm 3 3 < 8 := bits_lt modrm 3 3
  have hmode0 : mode64 = false → barred p0 6 1 = 0 ∧ barred p0 5 1 = 0 := fun hm => by
    have hopen := opensVex_eq_true.1 hopens hm
    have hext0 := (hext hm).1
    simp only [bits, barred] at hopen hext0 ⊢
    omega
  obtain ⟨⟨tail, rfl, hbytes⟩, hnamed, hwf⟩ := readRm_eq_some (by omega) (by omega) hx hb hread
  have hsrc : src2.wellFormed mode64 = true := hwf _ fun hm => by
    have := hmode0 hm
    omega
  have hdst : (Fin.ofNat 8 (bits modrm 3 3)).val = bits modrm 3 3 := val_ofNat_of_lt hreg
  have hsrc1 : (Fin.ofNat 32 (16 * barred p2 3 1 + barred p1 3 4)).val = 16 * barred p2 3 1 + barred p1 3 4 :=
    val_ofNat_of_lt (by omega)
  have hhigh : (16 * barred p2 3 1 + barred p1 3 4) / 16 = barred p2 3 1 := by omega
  have hlow : (16 * barred p2 3 1 + barred p1 3 4) % 16 = barred p1 3 4 := by omega
  obtain ⟨hmask, haaa⟩ := writemaskField_spec (bits_lt p2 0 3)
  have hmem : e = .dword → bits p2 4 1 = 1 → ∃ m, src2 = .mem m := fun he hbc => by
    cases src2 with
    | mem m => exact ⟨m, rfl⟩
    | reg r =>
      have hfields : fieldByte 3 (bits modrm 3 3) (r.val % 8) = modrm := (List.cons.inj hbytes).1
      have hmod := (bits_fieldByte (hi := 3) (by decide) hreg (Nat.mod_lt r.val (by decide : 0 < 8))).1
      rw [hfields] at hmod
      simp [evexRound, he, hbc, hmod] at hround
  refine ⟨evexBody e (bits p2 5 2) (bits p2 4 1) (Fin.ofNat 8 (bits modrm 3 3)) (writemaskField (bits p2 0 3))
    (Fin.ofNat 32 (16 * barred p2 3 1 + barred p1 3 4)) src2 (bits p1 7 1) (barred p0 6 1) (barred p0 5 1), rest, _, _, ?_,
    .evex (addr32 := P.contains 0x67) (by omega) (bits_lt p2 4 1) (bits_lt p1 7 1) ?_ hsrc ?_ hmem, ?_⟩
  · simp only [evexBody, hsrc1, hhigh, hlow, haaa, hdst, hbytes, ← evexP0_bytes h02 h00 h07 h04, ← evexP1_bytes h12 h10,
      ← evexP2_bytes h27, List.cons_append, List.nil_append]
  · exact (evexWellFormed_iff ..).2
      ⟨addr32_of_prefixRefusals hprefixes, hmask, fun hm => by rw [hsrc1]; exact (hext hm).2⟩
  · exact (mem_extBits_iff_namedBy (by decide) hsrc).2 ⟨hx, hb, hmode0, hnamed⟩
  · exact ⟨by simpa only [Instr.refusals, evexForm_isLegacy, Bool.false_eq_true, if_false] using hprefixes,
      (evexForm_addr32 ..).symm, by simp [evexForm_isLegacy]⟩

end

end Sys2Proof.Laws
end

section
/-! The three shapes together (R81): bytes are accepted exactly where they are a form in one of its spellings, with prefixes
that are not refused; the verdict is then the form, or #UD. -/

namespace Sys2Proof

/-- The prefixes `P`, the REX byte `rex` and the bytes `code` are the form `i`, apart from what raises #UD: bytes before it
that are not its own, or what `ud` says. -/
structure Reads (mode64 : Bool) (P : List Byte) (rex : Option Byte) (code : List Byte) (i : Instr) (ud : Bool) : Prop where
  prefixes : ∀ b ∈ P, isPrefix b = true
  rexByte : ∀ b ∈ rex, mode64 = true ∧ bits b 4 4 = 4
  shape : Shape mode64 rex code i ud
  admits : Admits mode64 P i

end Sys2Proof

namespace Sys2Proof.Laws

variable {mode64 ud : Bool} {P code : List Byte} {rex : Option Byte} {i : Instr}

/-! ### What a shape is -/

theorem wellFormed_of_shape (h : Shape mode64 rex code i ud) : i.wellFormed mode64 = true := by
  cases h with
  | mm hwf => rwa [mmInstr_wellFormed]
  | xmm hwf => rwa [xmmInstr_wellFormed]
  | vex _ _ hwf => rwa [vexInstr_wellFormed]
  | evex _ _ _ hwf hsrc => rw [evexForm_wellFormed, hwf, hsrc]; rfl

/-- The first byte of a form after its prefixes and REX is 0F, C5, C4 or 62: none of the prefixes and no REX byte. -/
theorem head_of_shape (h : Shape mode64 rex code i ud) (tail : List Byte) :
    ∀ b ∈ (code ++ tail).head?, isPrefix b = false ∧ (mode64 && bits b 4 4 == 4) = false := by
  have hheads : ∀ b ∈ ([0x0F, 0xC5, 0xC4, 0x62] : List Byte), isPrefix b = false ∧ (mode64 && bits b 4 4 == 4) = false := by
    cases mode64 <;> decide
  have hhead : ∃ b ∈ ([0x0F, 0xC5, 0xC4, 0x62] : List Byte), (code ++ tail).head? = some b := by
    cases h with
    | mm => exact ⟨0x0F, by decide, rfl⟩
    | xmm => exact ⟨0x0F, by decide, rfl⟩
    | evex => exact ⟨0x62, by decide, rfl⟩
    | @vex e l w x b p =>
      cases hthree : p.three with
      | true => exact ⟨0xC4, by decide, by simp [vexBody]⟩
      | false => exact ⟨0xC5, by decide, by simp [vexBody]⟩
  obtain ⟨c, hc, hcode⟩ := hhead
  intro b hb
  rw [hcode] at hb
  cases hb
  exact hheads c hc

/-! ### From a form to the verdict on its bytes -/

theorem refusals_of_legacy (h : i.isLegacy = true) : i.refusals mode64 P = legacyPrefixRefusals mode64 P := if_pos h

theorem refusals_of_not_legacy (h : i.isLegacy = false) : i.refusals mode64 P = prefixRefusals mode64 P := by
  simp [Instr.refusals, h]

theorem extraBytes_of_legacy (h : i.isLegacy = true) : i.extraBytes P rex = (P.contains 0xF0).toNat := if_pos h

theorem extraBytes_of_not_legacy (h : i.isLegacy = false) : i.extraBytes P rex = strayPrefixes P rex := by
  simp [Instr.extraBytes, h]

/-- LOCK is the one byte that can raise #UD before a legacy form. -/
theorem answer_lock (lock : Bool) (i : Instr) (tail : List Byte) :
    answer lock i 1 tail = answer (lock.toNat != 0 || false) i lock.toNat tail := by
  cases lock <;> rfl

/-- The verdict on the bytes of a form: what the prefixes decide, and else the form with the address size that they have. -/
theorem decodeShape_of_shape_orRefused (h : Shape mode64 rex code i ud)
    (h66 : i.isLegacy = true → P.contains 0x66 = (i.formClass == .sse2)) (tail : List Byte) :
    ∃ j, (P.contains 0x67 = i.addr32 → j = i) ∧ decodeShape mode64 P rex (code ++ tail)
      = (answer (i.extraBytes P rex != 0 || ud) j (i.extraBytes P rex) tail).orRefused (i.refusals mode64 P) := by
  cases h with
  | @mm e p dst src x b hwf hxb hrex =>
    rw [mmInstr_formClass] at h66
    refine ⟨mmInstr e ⟨P.contains 0x67, p.rex⟩ dst src, fun haddr => ?_, ?_⟩
    · rw [haddr, mmInstr_addr32]
    · rw [refusals_of_legacy (mmInstr_isLegacy ..), extraBytes_of_legacy (mmInstr_isLegacy ..), hrex,
        decodeShape_mm hwf hxb (h66 (mmInstr_isLegacy ..)), answer_lock]
  | @xmm e p dst src x b hwf hxb hrex =>
    rw [xmmInstr_formClass] at h66
    refine ⟨xmmInstr e ⟨P.contains 0x67, p.rex⟩ dst src, fun haddr => ?_, ?_⟩
    · rw [haddr, xmmInstr_addr32]
    · rw [refusals_of_legacy (xmmInstr_isLegacy ..), extraBytes_of_legacy (xmmInstr_isLegacy ..), hrex,
        decodeShape_xmm hwf hxb (h66 (xmmInstr_isLegacy ..)), answer_lock]
  | @vex e l w x b p dst src1 src2 hl hw hwf hxb =>
    obtain ⟨-, hlow, hsrc⟩ := (vexWellFormed_iff ..).1 hwf
    refine ⟨vexInstr e l ⟨P.contains 0x67, p.three⟩ dst src1 src2, fun haddr => ?_, ?_⟩
    · rw [haddr, vexInstr_addr32]
    · rw [refusals_of_not_legacy (vexInstr_isLegacy ..), extraBytes_of_not_legacy (vexInstr_isLegacy ..),
        decodeShape_vexBody hl hlow hsrc hxb, Bool.or_false]
  | @evex e ll bc w x b a dst mask src1 src2 hll hbc hw hwf hsrc hxb hround =>
    obtain ⟨-, hmask, hlow⟩ := (evexWellFormed_iff ..).1 hwf
    refine ⟨evexForm e ll bc (P.contains 0x67) dst mask src1 src2, fun haddr => ?_, ?_⟩
    · rw [haddr, evexForm_addr32]
    · rw [refusals_of_not_legacy (evexForm_isLegacy ..), extraBytes_of_not_legacy (evexForm_isLegacy ..),
        decodeShape_evexBody hll hbc hw hmask hlow hsrc hxb hround]

/-- What the prefixes decide stands before what the shape decides. -/
theorem decodeShape_of_shape_refused (h : Shape mode64 rex code i ud)
    (h66 : i.isLegacy = true → P.contains 0x66 = (i.formClass == .sse2)) {r : DecodeRefusal}
    (hr : firstRefusal (i.refusals mode64 P) = some r) (tail : List Byte) :
    decodeShape mode64 P rex (code ++ tail) = .refuse r := by
  obtain ⟨j, -, hdecode⟩ := decodeShape_of_shape_orRefused h h66 tail
  rw [hdecode, orRefused_of_some hr]

/-- The bytes of a form, its prefixes admitted. -/
theorem decodeShape_of_shape (h : Shape mode64 rex code i ud) (hP : Admits mode64 P i) (tail : List Byte) :
    decodeShape mode64 P rex (code ++ tail)
      = answer (i.extraBytes P rex != 0 || ud) i (i.extraBytes P rex) tail := by
  obtain ⟨j, hj, hdecode⟩ := decodeShape_of_shape_orRefused h hP.row66 tail
  rw [hdecode, orRefused_of_none hP.unrefused, hj hP.addr32]

/-! ### From an accepted verdict to the form -/

theorem decodeShape_not_opens {b next : Byte} (hb : b = 0xC5 ∨ b = 0xC4 ∨ b = 0x62) (h : opensVex mode64 next = false)
    (bs : List Byte) : decodeShape mode64 P rex (b :: next :: bs) = .refuse .notInScope := by
  rcases hb with rfl | rfl | rfl <;> simp [decodeShape, h]

theorem decodeShape_other {b : Byte} (h0F : b ≠ 0x0F) (hC5 : b ≠ 0xC5) (hC4 : b ≠ 0xC4) (h62 : b ≠ 0x62) (bs : List Byte) :
    decodeShape mode64 P rex (b :: bs) = .refuse .notInScope := by
  simp only [decodeShape, h0F, hC5, hC4, h62, if_false]

/-- The bytes after C5, C4 or 62 open VEX or EVEX, where the bytes are accepted (R76). -/
theorem opens_of_accepted {b next : Byte} {bs : List Byte} (hb : b = 0xC5 ∨ b = 0xC4 ∨ b = 0x62)
    (h : (decodeShape mode64 P rex (b :: next :: bs)).accepted = true) : opensVex mode64 next = true := by
  by_contra hno
  rw [decodeShape_not_opens hb (by simpa using hno)] at h
  cases h

/-- Bytes on which the shape answers an instruction or #UD are a form. -/
theorem shape_of_accepted {bs : List Byte} (hrex : ∀ b ∈ rex, mode64 = true ∧ bits b 4 4 = 4)
    (h : (decodeShape mode64 P rex bs).accepted = true) :
    ∃ code rest i ud, bs = code ++ rest ∧ Shape mode64 rex code i ud ∧ Admits mode64 P i := by
  have hmore : ∀ next l, ¬ (moreUnless next l).accepted = true := fun next l => by simp [not_accepted_moreUnless]
  match bs with
  | [] => exact absurd h (hmore _ _)
  | b :: bs =>
    by_cases h0F : b = 0x0F
    · subst h0F
      exact shape_of_legacy hrex h
    by_cases hC5 : b = 0xC5
    · subst hC5
      match bs with
      | [] => exact absurd h (hmore _ _)
      | v0 :: bs =>
        have hopens := opens_of_accepted (.inl rfl) h
        rw [decodeShape_vexTwo hopens] at h
        exact shape_of_vexTwo hopens h
    by_cases hC4 : b = 0xC4
    · subst hC4
      match bs with
      | [] => exact absurd h (hmore _ _)
      | [v1] =>
        have hopens := opens_of_accepted (.inr (.inl rfl)) h
        simp [decodeShape, hopens, not_accepted_moreUnless] at h
      | v1 :: v2 :: bs =>
        have hopens := opens_of_accepted (.inr (.inl rfl)) h
        rw [decodeShape_vexThree hopens] at h
        exact shape_of_vexThree hopens h
    by_cases h62 : b = 0x62
    · subst h62
      match bs with
      | [] => exact absurd h (hmore _ _)
      | [p0] =>
        have hopens := opens_of_accepted (.inr (.inr rfl)) h
        simp [decodeShape, hopens, not_accepted_moreUnless] at h
      | [p0, p1] =>
        have hopens := opens_of_accepted (.inr (.inr rfl)) h
        simp [decodeShape, hopens, not_accepted_moreUnless] at h
      | p0 :: p1 :: p2 :: bs =>
        have hopens := opens_of_accepted (.inr (.inr rfl)) h
        rw [decodeShape_evex hopens] at h
        exact shape_of_evex hopens h
    · rw [decodeShape_other h0F hC5 hC4 h62] at h
      cases h

/-! ### The decoder -/

theorem splits_of_reads (h : Reads mode64 P rex code i ud) (tail : List Byte) : Splits mode64 P rex (code ++ tail) where
  prefixes := h.prefixes
  rexByte := h.rexByte
  head _ := head_of_shape h.shape tail

/-- Decoding the bytes of a form, its prefixes admitted, whatever follows them. -/
theorem decode_of_reads (h : Reads mode64 P rex code i ud) (tail : List Byte) :
    decode mode64 (P ++ rex.toList ++ code ++ tail)
      = if (i.extraBytes P rex != 0 || ud) = true ∧ 15 < i.len + i.extraBytes P rex then .refuse .tooLong
        else answer (i.extraBytes P rex != 0 || ud) i (i.extraBytes P rex) tail := by
  rw [List.append_assoc, decode_of_splits (splits_of_reads h tail), decodeShape_of_shape h.shape h.admits]
  cases (i.extraBytes P rex != 0 || ud) with
  | true => simp [answer, Decoded.limited]
  | false => simp [answer, Decoded.limited]

theorem accepted_of_accepted_limited {n : Nat} {d : Decoded} (h : (d.limited n).accepted = true) : d.accepted = true := by
  cases d with
  | instr i rest => rfl
  | ud i extra => rfl
  | refuse r => cases h
  | more next =>
    rw [Decoded.limited] at h
    split at h <;> cases h

/-- Bytes that are found to be an instruction or to raise #UD are a form. -/
theorem exists_reads {bs : List Byte} (h : (decode mode64 bs).accepted = true) :
    ∃ P rex code tail i ud, bs = P ++ rex.toList ++ code ++ tail ∧ Reads mode64 P rex code i ud := by
  obtain ⟨P, rex, rest, rfl, hsplits⟩ := exists_splits mode64 bs
  rw [decode_of_splits hsplits] at h
  obtain ⟨code, tail, i, ud, rfl, hshape, hadmits⟩ := shape_of_accepted hsplits.rexByte (accepted_of_accepted_limited h)
  exact ⟨P, rex, code, tail, i, ud, (List.append_assoc ..).symm, hsplits.prefixes, hsplits.rexByte, hshape, hadmits⟩

/-- Bytes that decode to an instruction are that form, with no byte that raises #UD. -/
theorem reads_of_decode_instr {bs rest : List Byte} (h : decode mode64 bs = .instr i rest) :
    ∃ P rex code, bs = P ++ rex.toList ++ code ++ rest ∧ Reads mode64 P rex code i false ∧ i.extraBytes P rex = 0 := by
  obtain ⟨P, rex, code, tail, j, ud, rfl, hreads⟩ := exists_reads (by rw [h]; rfl)
  rw [decode_of_reads hreads] at h
  split at h
  · cases h
  · obtain ⟨hud, rfl, rfl⟩ := answer_eq_instr.1 h
    simp only [Bool.or_eq_false_iff, bne_eq_false_iff_eq] at hud
    obtain ⟨hextra, rfl⟩ := hud
    exact ⟨P, rex, code, rfl, hreads, hextra⟩

/-- Bytes that raise #UD are that form, with something that raises it, and have no more than 15 bytes. -/
theorem reads_of_decode_ud {bs : List Byte} {extra : Nat} (h : decode mode64 bs = .ud i extra) :
    ∃ P rex code tail ud, bs = P ++ rex.toList ++ code ++ tail ∧ Reads mode64 P rex code i ud
      ∧ extra = i.extraBytes P rex ∧ (extra ≠ 0 ∨ ud = true) ∧ i.len + extra ≤ 15 := by
  obtain ⟨P, rex, code, tail, j, ud, rfl, hreads⟩ := exists_reads (by rw [h]; rfl)
  rw [decode_of_reads hreads] at h
  split at h
  · cases h
  · next hlen =>
    obtain ⟨hud, rfl, rfl⟩ := answer_eq_ud.1 h
    refine ⟨P, rex, code, tail, ud, rfl, hreads, rfl, by simpa using hud, ?_⟩
    by_contra hlong
    exact hlen ⟨hud, Nat.lt_of_not_le hlong⟩

end Sys2Proof.Laws
end

section
/-! O1, O2, O3, O4. Forms and spellings: the bytes of a shape are the bodies that the statements list, its prefixes are the
form's own with what raises #UD, and the length is that of the bytes. -/

namespace Sys2Proof

/-- The REX byte, where it belongs to the form (R67, R70). -/
def Instr.ownRex (i : Instr) (rex : Option Byte) : List Byte := if i.isLegacy then rex.toList else []

end Sys2Proof

namespace Sys2Proof.Laws

open Machine

variable {mode64 ud : Bool} {P code : List Byte} {rex : Option Byte} {i : Instr}

/-! ### The instructions by shape (R62) -/

theorem isLegacy_iff : i.isLegacy = true ↔ i.formClass = .mmx ∨ i.formClass = .sse2 := by
  simp [Instr.isLegacy]

theorem isLegacy_eq_false_iff : i.isLegacy = false ↔ i.formClass ≠ .mmx ∧ i.formClass ≠ .sse2 := by
  simp [Instr.isLegacy]

/-- Every instruction is a form of one of the shapes. -/
theorem form_cases (i : Instr) :
    (∃ e p dst src, i = mmInstr e p dst src) ∨ (∃ e p dst src, i = xmmInstr e p dst src)
      ∨ (∃ e l p dst src1 src2, l < 2 ∧ i = vexInstr e l p dst src1 src2)
      ∨ ∃ e ll bc a dst mask src1 src2, ll < 3 ∧ bc < 2 ∧ (e = .dword → bc = 1 → ∃ m, src2 = .mem m) ∧ formBc e bc = bc
        ∧ i = evexForm e ll bc a dst mask src1 src2 := by
  have hmm : ∀ e p dst src, ∃ e' p' dst' src', mmInstr e p dst src = mmInstr e' p' dst' src' :=
    fun e p dst src => ⟨e, p, dst, src, rfl⟩
  have hxmm : ∀ e p dst src, ∃ e' p' dst' src', xmmInstr e p dst src = xmmInstr e' p' dst' src' :=
    fun e p dst src => ⟨e, p, dst, src, rfl⟩
  have hvex : ∀ e l p dst src1 src2, l < 2 → ∃ e' l' p' dst' src1' src2', l' < 2
      ∧ vexInstr e l p dst src1 src2 = vexInstr e' l' p' dst' src1' src2' :=
    fun e l p dst src1 src2 hl => ⟨e, l, p, dst, src1, src2, hl, rfl⟩
  have hevexD : ∀ ll a dst mask src1 src2, ll < 3 → ∃ e' ll' bc' a' dst' mask' src1' src2', ll' < 3 ∧ bc' < 2
      ∧ (e' = .dword → bc' = 1 → ∃ m, src2' = .mem m) ∧ formBc e' bc' = bc'
      ∧ evexDInstr ll a dst mask src1 src2 = evexForm e' ll' bc' a' dst' mask' src1' src2' :=
    fun ll a dst mask src1 src2 hll => ⟨.dword, ll, src2.split.2, a, dst, mask, src1, src2.split.1, hll,
      (split_spec src2).1, fun _ => (split_spec src2).2, rfl, by simp [evexForm, broadcastRm_split]⟩
  have hevexBW : ∀ e ll a dst mask src1 src2, e ≠ .dword → ll < 3 → ∃ e' ll' bc' a' dst' mask' src1' src2', ll' < 3 ∧ bc' < 2
      ∧ (e' = .dword → bc' = 1 → ∃ m, src2' = .mem m) ∧ formBc e' bc' = bc'
      ∧ evexForm e ll 0 a dst mask src1 src2 = evexForm e' ll' bc' a' dst' mask' src1' src2' :=
    fun e ll a dst mask src1 src2 he hll => ⟨e, ll, 0, a, dst, mask, src1, src2, hll, by decide, nofun,
      by cases e <;> rfl, rfl⟩
  cases i with
  | pcmpeqbMm p dst src => exact .inl (hmm .byte p dst src)
  | pcmpeqwMm p dst src => exact .inl (hmm .word p dst src)
  | pcmpeqdMm p dst src => exact .inl (hmm .dword p dst src)
  | pcmpeqbXmm p dst src => exact .inr (.inl (hxmm .byte p dst src))
  | pcmpeqwXmm p dst src => exact .inr (.inl (hxmm .word p dst src))
  | pcmpeqdXmm p dst src => exact .inr (.inl (hxmm .dword p dst src))
  | vpcmpeqbXmm p dst src1 src2 => exact .inr (.inr (.inl (hvex .byte 0 p dst src1 src2 (by decide))))
  | vpcmpeqwXmm p dst src1 src2 => exact .inr (.inr (.inl (hvex .word 0 p dst src1 src2 (by decide))))
  | vpcmpeqdXmm p dst src1 src2 => exact .inr (.inr (.inl (hvex .dword 0 p dst src1 src2 (by decide))))
  | vpcmpeqbYmm p dst src1 src2 => exact .inr (.inr (.inl (hvex .byte 1 p dst src1 src2 (by decide))))
  | vpcmpeqwYmm p dst src1 src2 => exact .inr (.inr (.inl (hvex .word 1 p dst src1 src2 (by decide))))
  | vpcmpeqdYmm p dst src1 src2 => exact .inr (.inr (.inl (hvex .dword 1 p dst src1 src2 (by decide))))
  | vpcmpeqdK128 a dst mask src1 src2 => exact .inr (.inr (.inr (hevexD 0 a dst mask src1 src2 (by decide))))
  | vpcmpeqdK256 a dst mask src1 src2 => exact .inr (.inr (.inr (hevexD 1 a dst mask src1 src2 (by decide))))
  | vpcmpeqdK512 a dst mask src1 src2 => exact .inr (.inr (.inr (hevexD 2 a dst mask src1 src2 (by decide))))
  | vpcmpeqbK128 a dst mask src1 src2 => exact .inr (.inr (.inr (hevexBW .byte 0 a dst mask src1 src2 nofun (by decide))))
  | vpcmpeqbK256 a dst mask src1 src2 => exact .inr (.inr (.inr (hevexBW .byte 1 a dst mask src1 src2 nofun (by decide))))
  | vpcmpeqbK512 a dst mask src1 src2 => exact .inr (.inr (.inr (hevexBW .byte 2 a dst mask src1 src2 nofun (by decide))))
  | vpcmpeqwK128 a dst mask src1 src2 => exact .inr (.inr (.inr (hevexBW .word 0 a dst mask src1 src2 nofun (by decide))))
  | vpcmpeqwK256 a dst mask src1 src2 => exact .inr (.inr (.inr (hevexBW .word 1 a dst mask src1 src2 nofun (by decide))))
  | vpcmpeqwK512 a dst mask src1 src2 => exact .inr (.inr (.inr (hevexBW .word 2 a dst mask src1 src2 nofun (by decide))))

/-! ### Bodies that raise #UD (R72, R155) -/

theorem evexBody_setW (e : Elem) (ll bc : Nat) (dst : Fin 8) (mask : Option (Fin 8)) (src1 : Fin 32) (src2 : Rm 32) (x b : Nat) :
    (evexBody e ll bc dst mask src1 src2 0 x b).modify 2 (· ||| 0x80) = evexBody e ll bc dst mask src1 src2 1 x b := by
  have hset : ∀ v : Fin 16, BitVec.ofNat 8 (128 * 0 + 8 * (15 - v.val) + 4 + 1) ||| 0x80
      = BitVec.ofNat 8 (128 * 1 + 8 * (15 - v.val) + 4 + 1) := by decide
  have h := hset ⟨src1.val % 16, Nat.mod_lt _ (by decide)⟩
  simp only [evexBody, List.cons_append, List.modify_succ_cons, List.modify_zero_cons, h]

theorem evexBody_setBc (e : Elem) {ll : Nat} (hll : ll < 3) (dst : Fin 8) (mask : Option (Fin 8)) (src1 : Fin 32)
    (src2 : Rm 32) (w x b : Nat) :
    (evexBody e ll 0 dst mask src1 src2 w x b).modify 3 (· ||| 0x10) = evexBody e ll 1 dst mask src1 src2 w x b := by
  have hset : ∀ (l : Fin 3) (v : Fin 2) (m : Fin 8), BitVec.ofNat 8 (32 * l.val + 16 * 0 + 8 * (1 - v.val) + m.val) ||| 0x10
      = BitVec.ofNat 8 (32 * l.val + 16 * 1 + 8 * (1 - v.val) + m.val) := by decide
  have h := hset ⟨ll, hll⟩ ⟨src1.val / 16, Nat.div_lt_of_lt_mul src1.isLt⟩ (mask.getD 0)
  simp only [evexBody, List.cons_append, List.modify_succ_cons, List.modify_zero_cons, h]

section Evex

variable {e : Elem} {ll bc : Nat} {a : Bool} {dst : Fin 8} {mask : Option (Fin 8)} {src1 : Fin 32} {src2 : Rm 32}

theorem evexForm_udBodies :
    (evexForm e ll bc a dst mask src1 src2).udBodies mode64 =
      ((evexForm e ll bc a dst mask src1 src2).bodies mode64).map
        fun body => match e with
          | .dword => body.modify 2 (· ||| 0x80)
          | .byte | .word => body.modify 3 (· ||| 0x10) := by
  cases e <;> rcases ll with _ | _ | ll <;> rfl

theorem mem_evexBodies {body : List Byte} :
    body ∈ evexBodies mode64 e ll bc dst mask src1 src2 ↔ ∃ x b w, (x, b) ∈ src2.extBits mode64 ∧ w < 2
      ∧ (e = .dword → w = 0) ∧ body = evexBody e ll bc dst mask src1 src2 w x b := by
  have hchoices : ∀ w, w ∈ bitChoices (e != .dword) 0 ↔ w < 2 ∧ (e = .dword → w = 0) := fun w => by
    rw [mem_bitChoices_iff]
    cases e <;> simp
    omega
  simp only [evexBodies, List.mem_flatMap, List.mem_map, Prod.exists, hchoices]
  constructor
  · rintro ⟨x, b, hxb, w, ⟨hw, hw0⟩, rfl⟩
    exact ⟨x, b, w, hxb, hw, hw0, rfl⟩
  · rintro ⟨x, b, w, hxb, hw, hw0, rfl⟩
    exact ⟨x, b, hxb, w, ⟨hw, hw0⟩, rfl⟩

end Evex

theorem mem_vexBodies {e : Elem} {l : Nat} {p : VexPrefix} {dst src1 : Fin 16} {src2 : Rm 16} {body : List Byte} :
    body ∈ vexBodies mode64 e l p dst src1 src2 ↔ ∃ x b w, (x, b) ∈ src2.extBits mode64 ∧ w < 2
      ∧ body = vexBody e l p.three dst src1 src2 w x b := by
  have hchoices : ∀ w, w ∈ ([0, 1] : List Nat) ↔ w < 2 := fun w => by
    simp
    omega
  simp only [vexBodies, List.mem_flatMap, List.mem_map, Prod.exists, hchoices]
  constructor
  · rintro ⟨x, b, hxb, w, hw, rfl⟩
    exact ⟨x, b, w, hxb, hw, rfl⟩
  · rintro ⟨x, b, w, hxb, hw, rfl⟩
    exact ⟨x, b, hxb, w, hw, rfl⟩

/-- The bytes of a shape are one of the form's bodies, or of those that raise #UD. -/
theorem mem_bodies_of_shape (h : Shape mode64 rex code i ud) :
    if ud then code ∈ i.udBodies mode64 else i.ownRex rex ++ code ∈ i.bodies mode64 := by
  cases h with
  | @mm e p dst src x b hwf hxb hrex =>
    rw [if_neg Bool.false_ne_true, mmInstr_bodies, Instr.ownRex, mmInstr_isLegacy, if_pos rfl, hrex]
    exact List.mem_map.2 ⟨(x, b), hxb, legacyBody_eq ..⟩
  | @xmm e p dst src x b hwf hxb hrex =>
    rw [if_neg Bool.false_ne_true, xmmInstr_bodies, Instr.ownRex, xmmInstr_isLegacy, if_pos rfl, hrex]
    exact List.mem_map.2 ⟨(x, b), hxb, legacyBody_eq ..⟩
  | @vex e l w x b p dst src1 src2 hl hw hwf hxb =>
    rw [if_neg Bool.false_ne_true, vexInstr_bodies _ _ _ _ _ _ _ hl, Instr.ownRex, vexInstr_isLegacy,
      if_neg Bool.false_ne_true]
    exact mem_vexBodies.2 ⟨x, b, w, hxb, hw, rfl⟩
  | @evex e ll bc w x b a dst mask src1 src2 hll hbc hw hwf hsrc hxb hround =>
    rw [evexForm_udBodies, evexForm_bodies _ _ _ _ _ _ _ _ hll hbc hround, Instr.ownRex, evexForm_isLegacy,
      if_neg Bool.false_ne_true]
    cases e with
    | dword =>
      match w, hw with
      | 0, _ => exact mem_evexBodies.2 ⟨x, b, 0, hxb, by decide, fun _ => rfl, rfl⟩
      | 1, _ => exact List.mem_map.2 ⟨_, mem_evexBodies.2 ⟨x, b, 0, hxb, by decide, fun _ => rfl, rfl⟩, evexBody_setW ..⟩
    | byte =>
      match bc, hbc with
      | 0, _ => exact mem_evexBodies.2 ⟨x, b, w, hxb, hw, nofun, rfl⟩
      | 1, _ => exact List.mem_map.2 ⟨_, mem_evexBodies.2 ⟨x, b, w, hxb, hw, nofun, rfl⟩, evexBody_setBc _ hll ..⟩
    | word =>
      match bc, hbc with
      | 0, _ => exact mem_evexBodies.2 ⟨x, b, w, hxb, hw, nofun, rfl⟩
      | 1, _ => exact List.mem_map.2 ⟨_, mem_evexBodies.2 ⟨x, b, w, hxb, hw, nofun, rfl⟩, evexBody_setBc _ hll ..⟩

/-! ### From the bodies to a shape -/

/-- A body of a legacy form is its REX byte, if it has one, and its bytes from 0F on. -/
theorem shape_of_legacy_body {body : List Byte} (hi : i.isLegacy = true) (hwf : i.wellFormed mode64 = true)
    (hbody : body ∈ i.bodies mode64) :
    ∃ rex code, body = rex.toList ++ code ∧ Shape mode64 rex code i false
      ∧ ∀ b ∈ rex, mode64 = true ∧ bits b 4 4 = 4 := by
  have hrexByte : ∀ {p : LegacyPrefix} {dst n x b : Nat} {src : Rm n}, n ≤ 16 → dst < 16 →
      legacyWellFormed mode64 p dst src = true → (x, b) ∈ src.extBits mode64 →
      ∀ c ∈ rexField p.rex dst x b, mode64 = true ∧ bits c 4 4 = 4 := by
    intro p dst n x b src hn hdst hwf hxb c hc
    obtain ⟨-, hmode, -, -⟩ := (legacyWellFormed_iff ..).1 hwf
    obtain ⟨hx, hb⟩ := extBits_lt hn hxb
    refine ⟨hmode ?_, bits_of_mem_rexField hdst hx hb hc⟩
    rw [← rexField_isSome p.rex dst x b, Option.isSome_iff_exists]
    exact ⟨c, hc⟩
  rcases form_cases i with ⟨e, p, dst, src, rfl⟩ | ⟨e, p, dst, src, rfl⟩ | ⟨e, l, p, dst, src1, src2, -, rfl⟩
    | ⟨e, ll, bc, a, dst, mask, src1, src2, -, -, -, -, rfl⟩
  · rw [mmInstr_wellFormed] at hwf
    rw [mmInstr_bodies] at hbody
    obtain ⟨⟨x, b⟩, hxb, rfl⟩ := List.mem_map.1 hbody
    exact ⟨_, _, legacyBody_eq .., .mm hwf hxb rfl,
      hrexByte (by decide) (dst.isLt.trans (by decide)) hwf hxb⟩
  · rw [xmmInstr_wellFormed] at hwf
    rw [xmmInstr_bodies] at hbody
    obtain ⟨⟨x, b⟩, hxb, rfl⟩ := List.mem_map.1 hbody
    exact ⟨_, _, legacyBody_eq .., .xmm hwf hxb rfl, hrexByte (by decide) dst.isLt hwf hxb⟩
  · rw [vexInstr_isLegacy] at hi
    cases hi
  · rw [evexForm_isLegacy] at hi
    cases hi

/-- The bodies of a VEX or EVEX form, and those that raise #UD, are its bytes after any REX byte. -/
theorem shape_of_body {body : List Byte} (hi : i.isLegacy = false) (hwf : i.wellFormed mode64 = true) (rex : Option Byte) :
    (body ∈ i.bodies mode64 → Shape mode64 rex body i false) ∧ (body ∈ i.udBodies mode64 → Shape mode64 rex body i true) := by
  rcases form_cases i with ⟨e, p, dst, src, rfl⟩ | ⟨e, p, dst, src, rfl⟩ | ⟨e, l, p, dst, src1, src2, hl, rfl⟩
    | ⟨e, ll, bc, a, dst, mask, src1, src2, hll, hbc, hround, hform, rfl⟩
  · rw [mmInstr_isLegacy] at hi
    cases hi
  · rw [xmmInstr_isLegacy] at hi
    cases hi
  · rw [vexInstr_wellFormed] at hwf
    rw [vexInstr_bodies _ _ _ _ _ _ _ hl, vexInstr_udBodies]
    refine ⟨fun hbody => ?_, nofun⟩
    obtain ⟨x, b, w, hxb, hw, rfl⟩ := mem_vexBodies.1 hbody
    exact .vex hl hw hwf hxb
  · rw [evexForm_wellFormed, Bool.and_eq_true] at hwf
    obtain ⟨hevex, hsrc⟩ := hwf
    rw [evexForm_udBodies, evexForm_bodies _ _ _ _ _ _ _ _ hll hbc hround, hform]
    have hshape : ∀ {bc' w x b}, bc' < 2 → w < 2 → (x, b) ∈ src2.extBits mode64 →
        (e = .dword → bc' = bc) → Shape mode64 rex (evexBody e ll bc' dst mask src1 src2 w x b)
          (evexForm e ll bc a dst mask src1 src2) (evexBodyUd e w bc') := by
      intro bc' w x b hbc' hw hxb hd
      have hsame : evexForm e ll bc a dst mask src1 src2 = evexForm e ll bc' a dst mask src1 src2 := by
        cases e with
        | dword => rw [hd rfl]
        | byte => rfl
        | word => rfl
      rw [hsame]
      exact .evex hll hbc' hw hevex hsrc hxb fun he hb => hround he ((hd he).symm.trans hb)
    have hzero : e ≠ .dword → bc = 0 := fun he => by
      cases e with
      | dword => exact absurd rfl he
      | byte => exact hform.symm
      | word => exact hform.symm
    constructor
    · intro hbody
      obtain ⟨x, b, w, hxb, hw, hw0, rfl⟩ := mem_evexBodies.1 hbody
      have hnoud : evexBodyUd e w bc = false := by
        cases e with
        | dword => rw [hw0 rfl]; rfl
        | byte => rw [hzero nofun]; rfl
        | word => rw [hzero nofun]; rfl
      exact hnoud ▸ hshape hbc hw hxb fun _ => rfl
    · intro hbody
      obtain ⟨plain, hplain, rfl⟩ := List.mem_map.1 hbody
      obtain ⟨x, b, w, hxb, hw, hw0, rfl⟩ := mem_evexBodies.1 hplain
      cases e with
      | dword =>
        simp only [hw0, evexBody_setW]
        exact hshape (w := 1) hbc (by decide) hxb fun _ => rfl
      | byte =>
        simp only [hzero nofun, evexBody_setBc _ hll]
        exact hshape (bc' := 1) (by decide) hw hxb nofun
      | word =>
        simp only [hzero nofun, evexBody_setBc _ hll]
        exact hshape (bc' := 1) (by decide) hw hxb nofun

end Sys2Proof.Laws
end

section
/-! O1, O2, O3, O4, O11, O12. The prefixes of a form and those that raise #UD (R67, R68, R70); the length (R78); the
spellings. -/

namespace Sys2Proof.Laws

open Machine

variable {mode64 ud : Bool} {P code : List Byte} {rex : Option Byte} {i : Instr}

/-! ### The prefixes of a form -/

theorem addr32_of_wellFormed (hwf : i.wellFormed mode64 = true) : i.addr32 = true → mode64 = true := by
  rcases form_cases i with ⟨e, p, dst, src, rfl⟩ | ⟨e, p, dst, src, rfl⟩ | ⟨e, l, p, dst, src1, src2, -, rfl⟩
    | ⟨e, ll, bc, a, dst, mask, src1, src2, -, -, -, -, rfl⟩
  · rw [mmInstr_wellFormed] at hwf
    rw [mmInstr_addr32]
    exact ((legacyWellFormed_iff ..).1 hwf).1
  · rw [xmmInstr_wellFormed] at hwf
    rw [xmmInstr_addr32]
    exact ((legacyWellFormed_iff ..).1 hwf).1
  · rw [vexInstr_wellFormed] at hwf
    rw [vexInstr_addr32]
    exact ((vexWellFormed_iff ..).1 hwf).1
  · rw [evexForm_wellFormed, Bool.and_eq_true] at hwf
    rw [evexForm_addr32]
    exact ((evexWellFormed_iff ..).1 hwf.1).1

/-- 0x66 where it selects the row, and LOCK where `lock` says that it is there. -/
def legacyStrays (i : Instr) (lock : Bool) : List Byte :=
  (if i.formClass = .sse2 then [0x66] else []) ++ if lock then [0xF0] else []

theorem legacyStrays_spec (i : Instr) (lock : Bool) :
    (legacyStrays i lock).Sublist strayBytes ∧ (legacyStrays i lock).contains 0xF2 = false
      ∧ (legacyStrays i lock).contains 0xF3 = false ∧ (legacyStrays i lock).contains 0x66 = (i.formClass == .sse2)
      ∧ (legacyStrays i lock).contains 0xF0 = lock := by
  unfold legacyStrays
  by_cases h : i.formClass = .sse2
  · rw [if_pos h, h]
    cases lock <;> decide
  · rw [if_neg h, beq_eq_false_iff_ne.2 h]
    cases lock <;> decide

theorem legacyStrays_perm (i : Instr) (lock : Bool) :
    (legacyStrays i lock ++ addrPrefix i.addr32).Perm ((if lock then [0xF0] else []) ++ i.prefixes) := by
  refine List.perm_iff_count.2 fun b => ?_
  simp only [legacyStrays, Instr.prefixes, List.count_append]
  omega

theorem prefixes_of_not_legacy (hi : i.isLegacy = false) : i.prefixes = addrPrefix i.addr32 := by
  rw [Instr.prefixes, if_neg (isLegacy_eq_false_iff.1 hi).2, List.append_nil]

/-- The prefixes of a legacy form, with or without LOCK, in any order. -/
theorem admits_legacy {lock : Bool} (hi : i.isLegacy = true) (ha : i.addr32 = true → mode64 = true)
    (hP : P.Perm ((if lock then [0xF0] else []) ++ i.prefixes)) :
    (∀ b ∈ P, isPrefix b = true) ∧ Admits mode64 P i ∧ i.extraBytes P rex = lock.toNat := by
  obtain ⟨hsub, hF2, hF3, h66, hF0⟩ := legacyStrays_spec i lock
  have hperm := hP.trans (legacyStrays_perm i lock).symm
  have hcontains : ∀ c ∈ strayBytes, P.contains c = (legacyStrays i lock).contains c :=
    fun c hc => contains_of_strays hsub hperm hc
  refine ⟨isPrefix_of_strays hsub hperm, ⟨?_, contains_addr_of_strays hsub hperm, fun _ => ?_⟩, ?_⟩
  · rw [refusals_of_legacy hi, legacyPrefixRefusals, firstRefusal, hcontains _ (by decide), hcontains _ (by decide), hF2, hF3,
      if_neg (by decide)]
    exact prefixRefusals_of_strays hsub hperm ha
  · rw [hcontains _ (by decide), h66]
  · rw [extraBytes_of_legacy hi, hcontains _ (by decide), hF0]

/-- The prefixes of a VEX or EVEX form, with some of the stray bytes, in any order. -/
theorem admits_other {stray : List Byte} (hi : i.isLegacy = false) (ha : i.addr32 = true → mode64 = true)
    (hstray : stray.Sublist strayBytes) (hP : P.Perm (stray ++ i.prefixes)) :
    (∀ b ∈ P, isPrefix b = true) ∧ Admits mode64 P i ∧ i.extraBytes P rex = stray.length + rex.isSome.toNat := by
  rw [prefixes_of_not_legacy hi] at hP
  refine ⟨isPrefix_of_strays hstray hP, ⟨?_, contains_addr_of_strays hstray hP, fun hl => ?_⟩, ?_⟩
  · rw [refusals_of_not_legacy hi]
    exact prefixRefusals_of_strays hstray hP ha
  · rw [hi] at hl
    cases hl
  · rw [extraBytes_of_not_legacy hi, strayPrefixes_of_strays hstray hP]

/-- Admitted prefixes before a legacy form are its own and LOCK. -/
theorem perm_of_admits_legacy (hi : i.isLegacy = true) (hP : ∀ b ∈ P, isPrefix b = true) (h : Admits mode64 P i) :
    P.Perm ((if P.contains 0xF0 then [0xF0] else []) ++ i.prefixes) := by
  obtain ⟨hnone, haddr, h66⟩ := h
  rw [refusals_of_legacy hi] at hnone
  obtain ⟨hperm, -⟩ := strays_of_prefixRefusals hP (prefixRefusals_of_legacy hnone)
  rw [firstRefusal_eq_none] at hnone
  obtain ⟨hF2, hF3⟩ := Bool.or_eq_false_iff.1 (hnone _ (List.mem_cons_self ..))
  have hstrays : strayBytes.filter (P.contains ·) = legacyStrays i (P.contains 0xF0) := by
    simp only [strayBytes, List.filter_cons, h66 hi, hF2, hF3, List.filter_nil, Bool.false_eq_true, if_false, legacyStrays,
      beq_iff_eq]
    by_cases hsse : i.formClass = .sse2
    · rw [if_pos hsse, if_pos hsse]
      rfl
    · rw [if_neg hsse, if_neg hsse]
      rfl
  rw [hstrays, haddr] at hperm
  exact hperm.trans (legacyStrays_perm i _)

/-- Admitted prefixes before a VEX or EVEX form are its own and some of the stray bytes. -/
theorem perm_of_admits_other (hi : i.isLegacy = false) (hP : ∀ b ∈ P, isPrefix b = true) (h : Admits mode64 P i) :
    P.Perm (strayBytes.filter (P.contains ·) ++ i.prefixes) := by
  obtain ⟨hnone, haddr, -⟩ := h
  rw [refusals_of_not_legacy hi] at hnone
  obtain ⟨hperm, -⟩ := strays_of_prefixRefusals hP hnone
  rwa [prefixes_of_not_legacy hi, ← haddr]

/-! ### From bytes to the spelling -/

theorem spelledBy_of_reads (h : Reads mode64 P rex code i false) (hextra : i.extraBytes P rex = 0) :
    i.SpelledBy mode64 (P ++ rex.toList ++ code) := by
  have hbody : i.ownRex rex ++ code ∈ i.bodies mode64 := by simpa using mem_bodies_of_shape h.shape
  cases hi : i.isLegacy with
  | true =>
    have hperm := perm_of_admits_legacy hi h.prefixes h.admits
    rw [extraBytes_of_legacy hi, Bool.toNat_eq_zero] at hextra
    rw [hextra] at hperm
    rw [Instr.ownRex, if_pos hi] at hbody
    exact ⟨P, _, hperm, hbody, List.append_assoc ..⟩
  | false =>
    have hperm := perm_of_admits_other hi h.prefixes h.admits
    obtain ⟨-, -, hcount⟩ := admits_other (rex := rex) hi (addr32_of_wellFormed (wellFormed_of_shape h.shape))
      List.filter_sublist hperm
    have hnone : rex = none ∧ strayBytes.filter (P.contains ·) = [] := by
      rw [hextra] at hcount
      cases rex with
      | none => exact ⟨rfl, List.length_eq_zero_iff.1 (by simpa using hcount.symm)⟩
      | some b => simp at hcount
    obtain ⟨rfl, hstray⟩ := hnone
    rw [hstray] at hperm
    rw [Instr.ownRex, hi, if_neg Bool.false_ne_true] at hbody
    exact ⟨P, code, hperm, hbody, by simp⟩

theorem rexByte_iff (b : Byte) : b &&& 0xF0 = 0x40 ↔ bits b 4 4 = 4 := by
  revert b
  decide

theorem length_toList (rex : Option Byte) : rex.toList.length = rex.isSome.toNat := by cases rex <;> rfl

theorem udSpelledBy_of_reads (h : Reads mode64 P rex code i ud) (hud : i.extraBytes P rex ≠ 0 ∨ ud = true) :
    i.UdSpelledBy mode64 (i.extraBytes P rex) (P ++ rex.toList ++ code) := by
  have hbody := mem_bodies_of_shape h.shape
  cases hi : i.isLegacy with
  | true =>
    have hnoud : ud = false := by
      cases h.shape with
      | mm => rfl
      | xmm => rfl
      | vex => rfl
      | evex =>
        rw [evexForm_isLegacy] at hi
        cases hi
    subst hnoud
    have hperm := perm_of_admits_legacy hi h.prefixes h.admits
    have hlock : P.contains 0xF0 = true := by simpa [extraBytes_of_legacy hi] using hud
    rw [hlock, if_pos rfl] at hperm
    rw [if_neg Bool.false_ne_true, Instr.ownRex, if_pos hi] at hbody
    rw [Instr.UdSpelledBy, if_pos (isLegacy_iff.1 hi), extraBytes_of_legacy hi, hlock]
    exact ⟨rfl, P, _, hperm, hbody, List.append_assoc ..⟩
  | false =>
    have hperm := perm_of_admits_other hi h.prefixes h.admits
    obtain ⟨-, -, hcount⟩ := admits_other (rex := rex) hi (addr32_of_wellFormed (wellFormed_of_shape h.shape))
      List.filter_sublist hperm
    rw [Instr.UdSpelledBy, if_neg (not_or.2 (isLegacy_eq_false_iff.1 hi))]
    refine ⟨_, P, rex, code, List.filter_sublist, hperm, fun b hb => ?_, ?_, ?_, rfl⟩
    · obtain ⟨hmode, h4⟩ := h.rexByte b hb
      exact ⟨hmode, (rexByte_iff b).2 h4⟩
    · rw [hcount, length_toList]
      rfl
    · cases ud with
      | true => exact .inr hbody
      | false =>
        rw [if_neg Bool.false_ne_true, Instr.ownRex, hi, if_neg Bool.false_ne_true] at hbody
        exact .inl ⟨by simpa using hud, hbody⟩

/-! ### From a spelling to the bytes -/

theorem reads_of_spelledBy {bytes : List Byte} (hwf : i.wellFormed mode64 = true) (h : i.SpelledBy mode64 bytes) :
    ∃ P rex code, bytes = P ++ rex.toList ++ code ∧ Reads mode64 P rex code i false ∧ i.extraBytes P rex = 0 := by
  obtain ⟨P, body, hP, hbody, rfl⟩ := h
  have ha := addr32_of_wellFormed hwf
  cases hi : i.isLegacy with
  | true =>
    obtain ⟨rex, code, rfl, hshape, hrex⟩ := shape_of_legacy_body hi hwf hbody
    obtain ⟨hprefixes, hadmits, hextra⟩ := admits_legacy (rex := rex) (lock := false) hi ha hP
    exact ⟨P, rex, code, (List.append_assoc ..).symm, ⟨hprefixes, hrex, hshape, hadmits⟩, hextra⟩
  | false =>
    obtain ⟨hprefixes, hadmits, hextra⟩ := admits_other (rex := none) (stray := []) hi ha (List.nil_sublist _) hP
    exact ⟨P, none, body, by simp, ⟨hprefixes, nofun, (shape_of_body hi hwf none).1 hbody, hadmits⟩, hextra⟩

/-! ### The length (R78) -/

theorem body_length_of_shape (h : Shape mode64 rex code i ud) :
    i.prefixes.length + (i.ownRex rex).length + code.length = i.len := by
  cases h with
  | @mm e p dst src x b hwf hxb hrex =>
    have hrexLen : (rexField p.rex dst x b).toList.length = p.rex.toNat := by rw [length_toList, rexField_isSome]
    simp only [Instr.prefixes, mmInstr_formClass, mmInstr_addr32, Instr.ownRex, mmInstr_isLegacy, mmInstr_len, mmLen, hrex,
      hrexLen, addrPrefix_length, List.length_append, List.length_cons, rm_bytes_length, if_true, reduceCtorEq, if_false,
      List.length_nil]
    omega
  | @xmm e p dst src x b hwf hxb hrex =>
    have hrexLen : (rexField p.rex dst x b).toList.length = p.rex.toNat := by rw [length_toList, rexField_isSome]
    simp only [Instr.prefixes, xmmInstr_formClass, xmmInstr_addr32, Instr.ownRex, xmmInstr_isLegacy, xmmInstr_len, xmmLen,
      hrex, hrexLen, addrPrefix_length, List.length_append, List.length_cons, rm_bytes_length, if_true, List.length_nil]
    omega
  | @vex e l w x b p dst src1 src2 hl hw hwf hxb =>
    rw [prefixes_of_not_legacy (vexInstr_isLegacy ..), Instr.ownRex, vexInstr_isLegacy, vexInstr_addr32, vexInstr_len,
      addrPrefix_length, vexLen]
    cases hthree : p.three <;> simp [vexBody, rm_bytes_length] <;> omega
  | @evex e ll bc w x b a dst mask src1 src2 hll hbc hw hwf hsrc hxb hround =>
    rw [prefixes_of_not_legacy (evexForm_isLegacy ..), Instr.ownRex, evexForm_isLegacy, evexForm_addr32, evexForm_len,
      addrPrefix_length, evexLen]
    simp [evexBody, rm_bytes_length]
    omega

/-- The bytes of a form and those that do not belong to it. -/
theorem length_of_reads (h : Reads mode64 P rex code i ud) :
    (P ++ rex.toList ++ code).length = i.len + i.extraBytes P rex := by
  have hbody := body_length_of_shape h.shape
  rw [List.length_append, List.length_append]
  cases hi : i.isLegacy with
  | true =>
    have hperm := (perm_of_admits_legacy hi h.prefixes h.admits).length_eq
    rw [Instr.ownRex, if_pos hi] at hbody
    rw [List.length_append] at hperm
    rw [extraBytes_of_legacy hi]
    cases hlock : P.contains 0xF0 <;> rw [hlock] at hperm <;> simp at hperm ⊢ <;> omega
  | false =>
    have hperm := perm_of_admits_other hi h.prefixes h.admits
    obtain ⟨-, -, hcount⟩ := admits_other (rex := rex) hi (addr32_of_wellFormed (wellFormed_of_shape h.shape))
      List.filter_sublist hperm
    have hlen := hperm.length_eq
    rw [List.length_append] at hlen
    rw [Instr.ownRex, hi, if_neg Bool.false_ne_true, List.length_nil] at hbody
    rw [hcount, length_toList]
    omega

theorem instr_len_bounds (i : Instr) : 3 ≤ i.len ∧ i.len ≤ 12 := by
  rcases form_cases i with ⟨e, p, dst, src, rfl⟩ | ⟨e, p, dst, src, rfl⟩ | ⟨e, l, p, dst, src1, src2, -, rfl⟩
    | ⟨e, ll, bc, a, dst, mask, src1, src2, -, -, -, -, rfl⟩
  · have h := mmLen_le p src
    rw [mmInstr_len]
    unfold mmLen at h ⊢
    omega
  · have h := xmmLen_le p src
    rw [xmmInstr_len]
    unfold xmmLen at h ⊢
    omega
  · have h32 := Bool.toNat_le p.addr32
    have hthree := Bool.toNat_le p.three
    have hsrc := rm_len_le src2
    rw [vexInstr_len]
    unfold vexLen
    omega
  · have h32 := Bool.toNat_le a
    have hsrc := rm_len_le src2
    rw [evexForm_len]
    unfold evexLen
    omega

end Sys2Proof.Laws

namespace Sys2Proof.Proofs

open Machine Laws

/-- Settles O2: from bytes to the spelling by what the shapes accept, from a spelling to the verdict by what they answer. -/
theorem exactlyTheSpellingsDecode : Obligations.ExactlyTheSpellingsDecode := by
  intro mode64 bs rest i
  constructor
  · intro h
    obtain ⟨P, rex, code, rfl, hreads, hextra⟩ := reads_of_decode_instr h
    exact ⟨wellFormed_of_shape hreads.shape, _, spelledBy_of_reads hreads hextra, rfl⟩
  · rintro ⟨hwf, bytes, hspelled, rfl⟩
    obtain ⟨P, rex, code, rfl, hreads, hextra⟩ := reads_of_spelledBy hwf hspelled
    rw [decode_of_reads hreads, hextra]
    rfl

/-- Settles O1: the encoder writes one of the spellings. -/
theorem decodeOfEncodeIsTheInstruction : Obligations.DecodeOfEncodeIsTheInstruction := fun mode64 i tail hwf =>
  (exactlyTheSpellingsDecode mode64 (encode i ++ tail) tail i).2 ⟨hwf, encode i, encode_spelledBy mode64 i, rfl⟩

/-- Settles O3: accepted bytes are a form in one of its spellings, apart from what raises #UD. -/
theorem decodedInstructionIsWellFormed : Obligations.DecodedInstructionIsWellFormed := by
  intro mode64 bs i
  constructor
  · intro rest h
    obtain ⟨P, rex, code, -, hreads, -⟩ := reads_of_decode_instr h
    exact wellFormed_of_shape hreads.shape
  · intro extra h
    obtain ⟨P, rex, code, tail, ud, rfl, hreads, rfl, hud, hlen⟩ := reads_of_decode_ud h
    exact ⟨wellFormed_of_shape hreads.shape, hlen, _, tail, udSpelledBy_of_reads hreads hud, rfl⟩

/-- Settles O4: the bytes of a form are as many as its length. -/
theorem decodedInstructionHasItsLength : Obligations.DecodedInstructionHasItsLength := by
  intro mode64 bs rest i h
  obtain ⟨P, rex, code, rfl, hreads, hextra⟩ := reads_of_decode_instr h
  have hlen := length_of_reads hreads
  rw [hextra] at hlen
  exact ⟨⟨_, rfl, hlen⟩, instr_len_bounds i⟩

end Sys2Proof.Proofs
end

section
/-! O11, O12. Prefix bytes that do not belong to a form: those that raise #UD before a VEX or EVEX form, and those that are
refused, by name. -/

namespace Sys2Proof

/-- 0x67 where a form has it, and 0x66 where that selects its row (R60, R67). -/
def formPrefixes (addr32 row66 : Bool) : List Byte := addrPrefix addr32 ++ if row66 then [0x66] else []

/-- What prefixes decide before a legacy form, and before another. -/
def shapeRefusals (legacy mode64 : Bool) (P : List Byte) : List (Bool × DecodeRefusal) :=
  if legacy then legacyPrefixRefusals mode64 P else prefixRefusals mode64 P

end Sys2Proof

namespace Sys2Proof.Laws

open Machine

variable {mode64 : Bool} {P body : List Byte} {i : Instr}

theorem prefixes_eq (i : Instr) : i.prefixes = formPrefixes i.addr32 (i.formClass == .sse2) := by
  unfold Instr.prefixes formPrefixes
  by_cases h : i.formClass = .sse2 <;> simp [h]

theorem refusals_perm {Q : List Byte} (h : P.Perm Q) : i.refusals mode64 P = shapeRefusals i.isLegacy mode64 Q := by
  unfold Instr.refusals shapeRefusals
  rw [legacyPrefixRefusals_perm h, prefixRefusals_perm h]

/-- What the prefixes decide, they decide of every spelling of the form. -/
theorem decode_of_refused_prefixes {r : DecodeRefusal} (hwf : i.wellFormed mode64 = true) (hbody : body ∈ i.bodies mode64)
    (hP : ∀ b ∈ P, isPrefix b = true) (h66 : i.isLegacy = true → P.contains 0x66 = (i.formClass == .sse2))
    (hr : firstRefusal (i.refusals mode64 P) = some r) (tail : List Byte) : decode mode64 (P ++ body ++ tail) = .refuse r := by
  have hform : ∃ rex code, body = rex.toList ++ code ∧ Shape mode64 rex code i false
      ∧ ∀ b ∈ rex, mode64 = true ∧ bits b 4 4 = 4 := by
    cases hi : i.isLegacy with
    | true => exact shape_of_legacy_body hi hwf hbody
    | false => exact ⟨none, body, rfl, (shape_of_body hi hwf none).1 hbody, nofun⟩
  obtain ⟨rex, code, rfl, hshape, hrex⟩ := hform
  have hsplits : Splits mode64 P rex (code ++ tail) := ⟨hP, hrex, fun _ => head_of_shape hshape tail⟩
  have hbytes : P ++ (rex.toList ++ code) ++ tail = P ++ rex.toList ++ (code ++ tail) := by simp only [List.append_assoc]
  rw [hbytes, decode_of_splits hsplits, decodeShape_of_shape_refused hshape h66 hr]
  rfl

/-! ### The prefixes that are refused, by name (R66, R67, R68, D18) -/

theorem refused_segment : ∀ b ∈ ([0x2E, 0x36, 0x3E, 0x26, 0x64, 0x65] : List Byte), ∀ legacy mode64 addr32 row66 : Bool,
    isPrefix b = true ∧ b ≠ 0x66
      ∧ firstRefusal (shapeRefusals legacy mode64 (b :: formPrefixes addr32 row66)) = some .segmentOverride := by
  decide

theorem refused_rep : ∀ b ∈ ([0xF2, 0xF3] : List Byte), ∀ mode64 addr32 row66 : Bool,
    isPrefix b = true ∧ b ≠ 0x66
      ∧ firstRefusal (shapeRefusals true mode64 (b :: formPrefixes addr32 row66)) = some .noSuchRow := by
  decide

theorem refused_second_67 : ∀ legacy mode64 row66 : Bool,
    firstRefusal (shapeRefusals legacy mode64 (0x67 :: formPrefixes true row66)) = some .redundantPrefix := by
  decide

theorem refused_second_66 : ∀ legacy mode64 addr32 : Bool,
    firstRefusal (shapeRefusals legacy mode64 (0x66 :: formPrefixes addr32 true)) = some .redundantPrefix := by
  decide

theorem refused_67_outside_mode64 : ∀ legacy row66 : Bool,
    firstRefusal (shapeRefusals legacy false (0x67 :: formPrefixes false row66)) = some .addr16 := by
  decide

theorem isPrefix_formPrefixes : ∀ addr32 row66 : Bool, ∀ b ∈ formPrefixes addr32 row66, isPrefix b = true := by
  decide

theorem contains_66_formPrefixes : ∀ addr32 row66 : Bool, (formPrefixes addr32 row66).contains 0x66 = row66 := by
  decide

/-- A byte `b` of the prefixes more than the form has, wherever it stands, is refused as it is before the form's own. -/
theorem decode_of_refused_byte {b : Byte} {r : DecodeRefusal} (hwf : i.wellFormed mode64 = true)
    (hbody : body ∈ i.bodies mode64) (hP : P.Perm (b :: i.prefixes)) (hb : isPrefix b = true)
    (h66 : b = 0x66 → i.formClass = .sse2)
    (hr : firstRefusal (shapeRefusals i.isLegacy mode64 (b :: formPrefixes i.addr32 (i.formClass == .sse2))) = some r)
    (tail : List Byte) : decode mode64 (P ++ body ++ tail) = .refuse r := by
  rw [prefixes_eq] at hP
  refine decode_of_refused_prefixes hwf hbody (fun c hc => ?_) (fun _ => ?_) (by rwa [refusals_perm hP]) tail
  · rcases List.mem_cons.1 (hP.mem_iff.1 hc) with rfl | hmem
    · exact hb
    · exact isPrefix_formPrefixes _ _ c hmem
  · rw [hP.contains_eq, List.contains_cons, contains_66_formPrefixes]
    by_cases hbyte : b = 0x66
    · rw [h66 hbyte, hbyte]
      rfl
    · rw [beq_eq_false_iff_ne.2 (Ne.symm hbyte), Bool.false_or]

end Sys2Proof.Laws

namespace Sys2Proof.Proofs

open Machine Laws

/-- Settles O11: the stray bytes and REX are admitted before the shape, and counted; the bodies that raise #UD are shapes. -/
theorem prefixBeforeVexOrEvexIsUd : Obligations.PrefixBeforeVexOrEvexIsUd := by
  intro mode64 i stray P rex body tail hwf hmmx hsse hstray hP hrex hud
  have hi : i.isLegacy = false := isLegacy_eq_false_iff.2 ⟨hmmx, hsse⟩
  obtain ⟨hprefixes, hadmits, hextra⟩ := admits_other (rex := rex) hi (addr32_of_wellFormed hwf) hstray hP
  rw [← length_toList] at hextra
  have hrexByte : ∀ b ∈ rex, mode64 = true ∧ bits b 4 4 = 4 := fun b hb =>
    ⟨(hrex b hb).1, (rexByte_iff b).1 (hrex b hb).2⟩
  have hform : ∃ ud, Shape mode64 rex body i ud ∧ (i.extraBytes P rex != 0 || ud) = true := by
    rcases hud with ⟨hne, hbody⟩ | hbody
    · refine ⟨false, (shape_of_body hi hwf rex).1 hbody, ?_⟩
      rwa [hextra, Bool.or_false, bne_iff_ne]
    · exact ⟨true, (shape_of_body hi hwf rex).2 hbody, Bool.or_true _⟩
  obtain ⟨ud, hshape, hraises⟩ := hform
  rw [decode_of_reads ⟨hprefixes, hrexByte, hshape, hadmits⟩, hraises, hextra]
  by_cases hlen : 15 < i.len + (stray.length + rex.toList.length) <;> simp [hlen, answer]

/-- Settles O12: each byte that is refused before the form's own prefixes is refused wherever it stands among them. -/
theorem refusedPrefixesAreNamed : Obligations.RefusedPrefixesAreNamed := by
  intro mode64 i b P body tail hwf hP hbody
  refine ⟨fun hb => ?_, fun hclass hb => ?_, fun haddr hb => ?_, fun hsse hb => ?_, fun hmode hb => ?_⟩
  · obtain ⟨hprefix, h66, hr⟩ := refused_segment b hb i.isLegacy mode64 i.addr32 (i.formClass == .sse2)
    exact decode_of_refused_byte hwf hbody hP hprefix (fun h => absurd h h66) hr tail
  · obtain ⟨hprefix, h66, hr⟩ := refused_rep b hb mode64 i.addr32 (i.formClass == .sse2)
    rw [← isLegacy_iff.2 hclass] at hr
    exact decode_of_refused_byte hwf hbody hP hprefix (fun h => absurd h h66) hr tail
  · subst hb
    exact decode_of_refused_byte hwf hbody hP rfl (fun h => absurd h (by decide)) (by rw [haddr, refused_second_67]) tail
  · subst hb
    exact decode_of_refused_byte hwf hbody hP rfl (fun _ => hsse) (by rw [hsse]; exact refused_second_66 ..) tail
  · subst hb hmode
    have haddr : i.addr32 = false := Bool.eq_false_iff.2 fun h => absurd (addr32_of_wellFormed hwf h) Bool.false_ne_true
    exact decode_of_refused_byte hwf hbody hP rfl (fun h => absurd h (by decide))
      (by rw [haddr, refused_67_outside_mode64]) tail

end Sys2Proof.Proofs
end

section
/-! O6, O7, O8, O9, O13. One field changed: the bits that an encoding reads and those that it does not, of REX, VEX and EVEX
bytes; which refusal a reserved field meets. -/

namespace Sys2Proof.Laws

/-! ### Bit fields of changed bytes -/

theorem bits_testBit (b : Byte) (lo n j : Nat) : (bits b lo n).testBit j = (decide (j < n) && b.getLsbD (lo + j)) := by
  rw [bits, Nat.testBit_mod_two_pow, Nat.testBit_div_two_pow, BitVec.getLsbD, Nat.add_comm]

theorem bits_congr {b c : Byte} {lo n : Nat} (h : ∀ j, j < n → b.getLsbD (lo + j) = c.getLsbD (lo + j)) :
    bits b lo n = bits c lo n := by
  refine Nat.eq_of_testBit_eq fun j => ?_
  rw [bits_testBit, bits_testBit]
  by_cases hj : j < n
  · rw [h j hj]
  · simp [hj]

theorem bits_or {m : Byte} {lo n : Nat} (h : ∀ j, j < n → m.getLsbD (lo + j) = false) (b : Byte) :
    bits (b ||| m) lo n = bits b lo n :=
  bits_congr fun j hj => by rw [BitVec.getLsbD_or, h j hj, Bool.or_false]

theorem bits_and {m : Byte} {lo n : Nat} (h : ∀ j, j < n → m.getLsbD (lo + j) = true) (b : Byte) :
    bits (b &&& m) lo n = bits b lo n :=
  bits_congr fun j hj => by rw [BitVec.getLsbD_and, h j hj, Bool.and_true]

theorem bits_xor {m : Byte} {lo n : Nat} (h : ∀ j, j < n → m.getLsbD (lo + j) = false) (b : Byte) :
    bits (b ^^^ m) lo n = bits b lo n :=
  bits_congr fun j hj => by rw [BitVec.getLsbD_xor, h j hj, Bool.xor_false]

theorem bits_one (b : Byte) (k : Nat) : bits b k 1 = (b.getLsbD k).toNat := (Nat.toNat_testBit b.toNat k).symm

theorem bits_two (b : Byte) (k : Nat) : bits b k 2 = 2 * (b.getLsbD (k + 1)).toNat + (b.getLsbD k).toNat := by
  rw [BitVec.getLsbD, BitVec.getLsbD, Nat.toNat_testBit, Nat.toNat_testBit, Nat.pow_succ, ← Nat.div_div_eq_div_mul, bits]
  omega

theorem barred_congr {b c : Byte} {lo n : Nat} (h : bits b lo n = bits c lo n) : barred b lo n = barred c lo n := by
  rw [barred, barred, h]

/-! ### Opcode and prefixes -/

theorem exists_elem {op : Byte} (h : op = 0x74 ∨ op = 0x75 ∨ op = 0x76) : ∃ e : Elem, op = e.opcode := by
  rcases h with rfl | rfl | rfl
  · exact ⟨.byte, rfl⟩
  · exact ⟨.word, rfl⟩
  · exact ⟨.dword, rfl⟩

theorem opcode_eq_76 (e : Elem) : e.opcode = 0x76 ↔ e = .dword := by cases e <;> decide

theorem evexBodyUd_of_ne {e : Elem} (he : e ≠ .dword) (w bc : Nat) : evexBodyUd e w bc = (bc == 1) := by
  cases e with
  | dword => exact absurd rfl he
  | byte => rfl
  | word => rfl

variable {mode64 : Bool} {P : List Byte} {rex : Option Byte}

/-- With or without 0x67, C5, C4 or 62 is the first byte after the prefixes. -/
theorem splits_addr {pre : List Byte} (hpre : pre ∈ ([[], [0x67#8]] : List (List Byte))) {b : Byte}
    (hb : b ∈ ([0xC5, 0xC4, 0x62] : List Byte)) (rest : List Byte) : Splits mode64 pre none (b :: rest) where
  prefixes := by
    have h : ∀ pre ∈ ([[], [0x67#8]] : List (List Byte)), ∀ c ∈ pre, isPrefix c = true := by decide
    exact h pre hpre
  rexByte := nofun
  head _ c hc := by
    have h : ∀ b ∈ ([0xC5, 0xC4, 0x62] : List Byte), isPrefix b = false ∧ (mode64 && bits b 4 4 == 4) = false := by
      cases mode64 <;> decide
    cases hc
    exact h b hb

theorem decode_addr {pre : List Byte} (hpre : pre ∈ ([[], [0x67#8]] : List (List Byte))) {b : Byte}
    (hb : b ∈ ([0xC5, 0xC4, 0x62] : List Byte)) (rest : List Byte) :
    decode mode64 (pre ++ b :: rest) = (decodeShape mode64 pre none (b :: rest)).limited (pre ++ b :: rest).length := by
  have h := decode_of_splits (splits_addr (mode64 := mode64) hpre hb rest)
  rwa [Option.toList_none, List.append_nil] at h

/-! ### VEX (R69, R70) -/

theorem vexThree_xor (v1 v2 : Byte) : vexThree v1 (v2 ^^^ 0x80) = vexThree v1 v2 := by
  rw [vexThree, vexThree, barred_congr (bits_xor (by decide) v2), bits_xor (lo := 2) (by decide), bits_xor (lo := 0) (by decide)]

/-- The three bytes that R69 gives for the two of `C5 v0`. -/
theorem vexThree_of_vexTwo : ∀ v0 : Byte,
    vexThree ((v0 &&& 0x80) ||| 0x61) (v0 &&& 0x7F) = { vexTwo v0 with three := true }
      ∧ (bits v0 6 2 = 3 → bits ((v0 &&& 0x80) ||| 0x61) 6 2 = 3) := by
  decide

theorem decodeVex_three {f : VexFields} {bs rest : List Byte} {i : Instr}
    (h : decodeVex mode64 P rex f bs = .instr i rest) :
    decodeVex mode64 P rex { f with three := true } bs = .instr i.threeByteVex rest := by
  obtain ⟨hnone, e, modrm, code, src2, tail, rfl, hread⟩ := decodeVex_accepted (by rw [h]; rfl)
  rw [decodeVex_of_read e hread, orRefused_of_none hnone, answer_eq_instr] at h
  obtain ⟨hstray, rfl, rfl⟩ := h
  have hnone' : firstRefusal (vexRefusals mode64 P { f with three := true }) = none := hnone
  rw [decodeVex_of_read (f := { f with three := true }) e hread, orRefused_of_none hnone', answer_eq_instr]
  refine ⟨hstray, ?_, rfl⟩
  rcases hl : f.l with _ | l <;> cases e <;> rfl

/-! ### EVEX (R71, R72, R73) -/

theorem decodeEvex_refused {p0 p1 p2 modrm : Byte} {r : DecodeRefusal} (e : Elem)
    (h : firstRefusal (evexRefusals mode64 P p0 p1 p2 (evexRound e p2 modrm)) = some r) (bs : List Byte) :
    decodeEvex mode64 P rex p0 p1 p2 (e.opcode :: modrm :: bs) = .refuse r := by
  unfold evexRound at h
  simp only [decodeEvex, elemOf_opcode, List.head?_cons, Option.any_some, h]

/-- What EVEX bytes that are an instruction are. -/
theorem decodeEvex_eq_instr {p0 p1 p2 : Byte} {bs rest : List Byte} {i : Instr}
    (h : decodeEvex mode64 P rex p0 p1 p2 bs = .instr i rest) :
    ∃ (e : Elem) (modrm : Byte) (code : List Byte) (src2 : Rm 32), bs = e.opcode :: modrm :: code
      ∧ firstRefusal (evexRefusals mode64 P p0 p1 p2 (evexRound e p2 modrm)) = none
      ∧ readRm 32 modrm (16 * barred p0 6 1 + 8 * barred p0 5 1 + bits modrm 0 3) (barred p0 6 1) (barred p0 5 1) code
        = some (src2, rest)
      ∧ strayPrefixes P rex = 0 ∧ evexUd e p1 p2 = false ∧ i = evexInstr (P.contains 0x67) p1 p2 modrm e src2 := by
  obtain ⟨e, modrm, code, src2, tail, rfl, hnone, hread⟩ := decodeEvex_accepted (by rw [h]; rfl)
  rw [decodeEvex_of_read e hread, orRefused_of_none hnone, answer_eq_instr, Bool.or_eq_false_iff, bne_eq_false_iff_eq] at h
  obtain ⟨⟨hstray, hud⟩, rfl, rfl⟩ := h
  exact ⟨e, modrm, code, src2, rfl, hnone, hread, hstray, hud, rfl⟩

/-- EVEX bytes that are an instruction, with or without 0x67 before them. -/
theorem decodeEvex_of_decode {pre : List Byte} (hpre : pre ∈ ([[], [0x67#8]] : List (List Byte))) {p0 p1 p2 : Byte}
    {bs rest : List Byte} {i : Instr} (h : decode mode64 (pre ++ 0x62 :: p0 :: p1 :: p2 :: bs) = .instr i rest) :
    opensVex mode64 p0 = true ∧ decodeEvex mode64 pre none p0 p1 p2 bs = .instr i rest := by
  rw [decode_addr hpre (by decide), limited_eq_instr] at h
  have hopens : opensVex mode64 p0 = true := opens_of_accepted (.inr (.inr rfl)) (by rw [h]; rfl)
  rw [decodeShape_evex hopens] at h
  exact ⟨hopens, h⟩

/-- What EVEX bytes decode to, with or without 0x67 before them. -/
theorem decode_of_decodeEvex {pre : List Byte} (hpre : pre ∈ ([[], [0x67#8]] : List (List Byte))) {p0 : Byte}
    (hopens : opensVex mode64 p0 = true) (p1 p2 : Byte) (bs : List Byte) :
    decode mode64 (pre ++ 0x62 :: p0 :: p1 :: p2 :: bs)
      = (decodeEvex mode64 pre none p0 p1 p2 bs).limited (pre ++ 0x62 :: p0 :: p1 :: p2 :: bs).length := by
  rw [decode_addr hpre (by decide), decodeShape_evex hopens]

/-- W is read with the opcode 76 only (R72). -/
theorem decodeEvex_xor (p0 p1 p2 : Byte) {e : Elem} (he : e ≠ .dword)
    (bs : List Byte) :
    decodeEvex mode64 P rex p0 (p1 ^^^ 0x80) p2 (e.opcode :: bs) = decodeEvex mode64 P rex p0 p1 p2 (e.opcode :: bs) := by
  have hfields : bits (p1 ^^^ 0x80) 2 1 = bits p1 2 1 ∧ bits (p1 ^^^ 0x80) 0 2 = bits p1 0 2
      ∧ barred (p1 ^^^ 0x80) 3 4 = barred p1 3 4 :=
    ⟨bits_xor (by decide) p1, bits_xor (by decide) p1, barred_congr (bits_xor (by decide) p1)⟩
  obtain ⟨h2, h0, h3⟩ := hfields
  have hud : evexUd e (p1 ^^^ 0x80) p2 = evexUd e p1 p2 := by
    rw [evexUd_eq, evexUd_eq, evexBodyUd_of_ne he, evexBodyUd_of_ne he]
  have hinstr : ∀ a modrm src2, evexInstr a (p1 ^^^ 0x80) p2 modrm e src2 = evexInstr a p1 p2 modrm e src2 := fun a modrm src2 => by
    rw [evexInstr_eq, evexInstr_eq, h3]
  have hrefusals : ∀ round, evexRefusals mode64 P p0 (p1 ^^^ 0x80) p2 round = evexRefusals mode64 P p0 p1 p2 round :=
    fun round => by rw [evexRefusals, evexRefusals, h2, h0, h3]
  simp only [decodeEvex, elemOf_opcode, hrefusals, hinstr, hud]

end Sys2Proof.Laws

namespace Sys2Proof.Proofs

open Laws

/-- Settles O6: no field that decoding reads has the bit W, where the opcode does not make it raise #UD. -/
theorem wigBitIsIgnored : Obligations.WigBitIsIgnored := by
  intro mode64 pre hpre
  refine ⟨fun v1 v2 bs => ?_, fun p0 p1 p2 op bs hop => ?_⟩
  · rw [decode_addr hpre (by decide), decode_addr hpre (by decide)]
    cases hopens : opensVex mode64 v1 with
    | true => simp only [decodeShape_vexThree hopens, vexThree_xor, List.length_append, List.length_cons]
    | false => simp only [decodeShape_not_opens (.inr (.inl rfl)) hopens, List.length_append, List.length_cons]
  · have hrow : ∃ e : Elem, op = e.opcode ∧ e ≠ .dword := by
      rcases hop with rfl | rfl
      · exact ⟨.byte, rfl, nofun⟩
      · exact ⟨.word, rfl, nofun⟩
    obtain ⟨e, rfl, he⟩ := hrow
    rw [decode_addr hpre (by decide), decode_addr hpre (by decide)]
    cases hopens : opensVex mode64 p0 with
    | true => simp only [decodeShape_evex hopens, decodeEvex_xor p0 p1 p2 he, List.length_append, List.length_cons]
    | false => simp only [decodeShape_not_opens (.inr (.inr rfl)) hopens, List.length_append, List.length_cons]

/-- Settles O7: the two prefixes have the same fields. -/
theorem twoAndThreeByteVexAgree : Obligations.TwoAndThreeByteVexAgree := by
  intro mode64 pre hpre v0 bs rest i h
  obtain ⟨hfields, hopen⟩ := vexThree_of_vexTwo v0
  rw [decode_addr hpre (by decide), limited_eq_instr] at h ⊢
  have hopens : opensVex mode64 v0 = true := opens_of_accepted (.inl rfl) (by rw [h]; rfl)
  rw [decodeShape_vexTwo hopens] at h
  rw [decodeShape_vexThree (opensVex_eq_true.2 fun hm => hopen (opensVex_eq_true.1 hopens hm)), hfields]
  exact decodeVex_three h

/-- Settles O8: of bytes that are an instruction no reserved field is set, and none raises #UD. -/
theorem reservedEvexFieldsNeverDecode : Obligations.ReservedEvexFieldsNeverDecode := by
  intro mode64 pre hpre p0 p1 p2 op bs rest i hfield h
  obtain ⟨-, heq⟩ := decodeEvex_of_decode hpre h
  obtain ⟨e, modrm, code, src2, hbytes, hnone, -, -, hud, -⟩ := decodeEvex_eq_instr heq
  obtain ⟨rfl, rfl⟩ := List.cons.inj hbytes
  obtain ⟨-, ⟨h02, h12⟩, -, h25, h27, hround, ⟨h07, h04⟩, -⟩ := (evexRefusals_eq_none mode64 pre).1 hnone
  rw [evexUd_eq] at hud
  rw [bits_two] at h02 h25
  rw [bits_one] at h12 h27 h07 h04
  rcases hfield with h3 | h2 | hp1 | hR | hR' | hz | ⟨h6, h5⟩ | ⟨hw, hop⟩ | ⟨hb, hop⟩ | ⟨hb, hop, m, hm, hm7, hm6⟩
  · rw [h3, Bool.toNat_true] at h02
    omega
  · rw [h2, Bool.toNat_true] at h02
    omega
  · rw [hp1] at h12
    cases h12
  · exact h07 (congrArg Bool.toNat hR)
  · exact h04 (congrArg Bool.toNat hR')
  · exact h27 (congrArg Bool.toNat hz)
  · rw [h6, h5] at h25
    exact h25 rfl
  · have hdword : e = .dword := (opcode_eq_76 e).1 hop
    rw [hdword, evexBodyUd, bits_one, hw] at hud
    cases hud
  · have hrow : e ≠ .dword := fun he => by
      rw [he] at hop
      exact absurd hop (by decide)
    rw [evexBodyUd_of_ne hrow, bits_one, hb] at hud
    cases hud
  · have hdword : e = .dword := (opcode_eq_76 e).1 hop
    cases hm
    rw [hdword, evexRound, bits_one, bits_two, hb, hm7, hm6] at hround
    cases hround

end Sys2Proof.Proofs
end

section
/-! O9, O13. Each reserved EVEX field and each refused REX bit, by the name that it meets: it stands in the list of refusals
before every other that holds. -/

namespace Sys2Proof.Laws

variable {mode64 : Bool} {P : List Byte} {p0 p1 p2 : Byte}

/-! ### The refusals of EVEX bytes, by name (R72, R73)

Each lemma is about bytes of which nothing that stands before the named refusal holds. -/

section Names

variable (mode64 P)

theorem firstRefusal_reserved (h : bits p0 2 2 ≠ 0 ∨ bits p1 2 1 ≠ 1) (round : Bool) :
    firstRefusal (evexRefusals mode64 P p0 p1 p2 round) = some .evexReservedBits := by
  have hres : (bits p0 2 2 != 0 || bits p1 2 1 != 1) = true := by simpa using h
  simp only [evexRefusals, firstRefusal, hres, if_true]

variable {mode64 P} {round : Bool} (h : firstRefusal (evexRefusals mode64 P p0 p1 p2 round) = none)

include h

/-- The conditions of the refusals of bytes that are not refused. -/
theorem evexConditions :
    (bits p0 2 2 != 0 || bits p1 2 1 != 1) = false ∧ (bits p0 0 2 != 1 || bits p1 0 2 != 1) = false ∧ hasSegment P = false
      ∧ hasRepeat P = false ∧ (bits p2 5 2 == 3) = false ∧ (bits p2 7 1 == 1) = false ∧ round = false := by
  simp only [firstRefusal_eq_none, evexRefusals, List.forall_mem_cons] at h
  obtain ⟨hres, hrow, hseg, hrep, hll, hz, hround, -⟩ := h
  exact ⟨hres, hrow, hseg, hrep, hll, hz, hround⟩

theorem firstRefusal_ll {q2 : Byte} (hll : bits q2 5 2 = 3) (round' : Bool) :
    firstRefusal (evexRefusals mode64 P p0 p1 q2 round') = some .evexLlReserved := by
  obtain ⟨hres, hrow, hseg, hrep, -⟩ := evexConditions h
  simp only [evexRefusals, firstRefusal, hres, hrow, hseg, hrep, hll, BEq.rfl, Bool.false_eq_true, if_false, if_true]

theorem firstRefusal_z {q2 : Byte} (hll : bits q2 5 2 = bits p2 5 2) (hz : bits q2 7 1 = 1) (round' : Bool) :
    firstRefusal (evexRefusals mode64 P p0 p1 q2 round') = some .evexZOnMaskDest := by
  obtain ⟨hres, hrow, hseg, hrep, hll0, -⟩ := evexConditions h
  simp only [evexRefusals, firstRefusal, hres, hrow, hseg, hrep, hll, hll0, hz, BEq.rfl, Bool.false_eq_true, if_false, if_true]

theorem firstRefusal_round {q2 : Byte} (hll : bits q2 5 2 = bits p2 5 2) (hz : bits q2 7 1 = bits p2 7 1) :
    firstRefusal (evexRefusals mode64 P p0 p1 q2 true) = some .evexBWithRegister := by
  obtain ⟨hres, hrow, hseg, hrep, hll0, hz0, -⟩ := evexConditions h
  simp only [evexRefusals, firstRefusal, hres, hrow, hseg, hrep, hll, hll0, hz, hz0, Bool.false_eq_true, if_false, if_true]

theorem firstRefusal_storedR {q0 : Byte} (hres : bits q0 2 2 = bits p0 2 2) (hrow : bits q0 0 2 = bits p0 0 2)
    (hr : bits q0 7 1 = 0 ∨ bits q0 4 1 = 0) :
    firstRefusal (evexRefusals mode64 P q0 p1 p2 round) = some .evexROnMaskDest := by
  obtain ⟨hres0, hrow0, hseg, hrep, hll, hz, hround⟩ := evexConditions h
  have hstored : (bits q0 7 1 == 0 || bits q0 4 1 == 0) = true := by simpa using hr
  simp only [evexRefusals, firstRefusal, hres, hres0, hrow, hrow0, hseg, hrep, hll, hz, hround, hstored, Bool.false_eq_true,
    if_false, if_true]

end Names

/-! ### A bit set or cleared -/

theorem bits_or_one {m : Byte} {k : Nat} (h : m.getLsbD k = true) (b : Byte) : bits (b ||| m) k 1 = 1 := by
  rw [bits_one, BitVec.getLsbD_or, h, Bool.or_true]
  rfl

theorem bits_and_zero {m : Byte} {k : Nat} (h : m.getLsbD k = false) (b : Byte) : bits (b &&& m) k 1 = 0 := by
  rw [bits_one, BitVec.getLsbD_and, h, Bool.and_false]
  rfl

theorem opensVex_congr {b c : Byte} (h : bits b 6 2 = bits c 6 2) : opensVex mode64 b = opensVex mode64 c := by
  rw [opensVex, opensVex, h]

/-- EVEX bytes of which a field is refused, with or without 0x67 before them. -/
theorem decode_of_evex_refused {pre : List Byte} (hpre : pre ∈ ([[], [0x67#8]] : List (List Byte))) {modrm : Byte}
    {r : DecodeRefusal} (hopens : opensVex mode64 p0 = true) (e : Elem)
    (h : firstRefusal (evexRefusals mode64 pre p0 p1 p2 (evexRound e p2 modrm)) = some r) (bs : List Byte) :
    decode mode64 (pre ++ 0x62 :: p0 :: p1 :: p2 :: e.opcode :: modrm :: bs) = .refuse r := by
  rw [decode_of_decodeEvex hpre hopens, decodeEvex_refused e h]
  rfl

/-- EVEX bytes that raise #UD by their body and are not refused, with or without 0x67 before them. -/
theorem decode_of_evex_ud {pre : List Byte} (hpre : pre ∈ ([[], [0x67#8]] : List (List Byte))) {modrm : Byte}
    {bs rest : List Byte} {src2 : Rm 32} {e : Elem} (hopens : opensVex mode64 p0 = true)
    (hnone : firstRefusal (evexRefusals mode64 pre p0 p1 p2 (evexRound e p2 modrm)) = none)
    (hread : readRm 32 modrm (16 * barred p0 6 1 + 8 * barred p0 5 1 + bits modrm 0 3) (barred p0 6 1) (barred p0 5 1) bs
      = some (src2, rest))
    (hstray : strayPrefixes pre none = 0) (hud : evexUd e p1 p2 = true) :
    decode mode64 (pre ++ 0x62 :: p0 :: p1 :: p2 :: e.opcode :: modrm :: bs)
      = .ud (evexInstr (pre.contains 0x67) p1 p2 modrm e src2) 0 := by
  rw [decode_of_decodeEvex hpre hopens, decodeEvex_of_read e hread, orRefused_of_none hnone, hud, Bool.or_true, hstray]
  refine limited_eq_ud.2 ⟨rfl, ?_⟩
  exact (instr_len_bounds _).2.trans (by decide)

/-! ### The refusals of a REX byte, by name (R68) -/

/-- The prefixes that a legacy form can have, in either order. -/
theorem legacyOrders_spec : ∀ pre ∈ ([[], [0x67#8], [0x66], [0x67, 0x66], [0x66, 0x67]] : List (List Byte)),
    (∀ b ∈ pre, isPrefix b = true) ∧ (pre.contains 0xF2 || pre.contains 0xF3) = false ∧ hasSegment pre = false
      ∧ hasRepeat pre = false := by
  decide

theorem addrOrders_spec : ∀ pre ∈ ([[], [0x67#8]] : List (List Byte)),
    pre ∈ ([[], [0x67#8], [0x66], [0x67, 0x66], [0x66, 0x67]] : List (List Byte)) ∧ pre.contains 0x66 = false := by
  decide

section Rex

variable {pre bs : List Byte} {rex : Byte} {e : Elem}
  (hpre : pre ∈ ([[], [0x67#8], [0x66], [0x67, 0x66], [0x66, 0x67]] : List (List Byte))) (hrex : rex &&& 0xF0 = 0x40)

include hpre hrex

theorem decode_of_rex (bs : List Byte) :
    decode true (pre ++ rex :: 0x0F :: bs)
      = (decodeLegacy true pre (some rex) bs).limited (pre ++ rex :: 0x0F :: bs).length := by
  have hsplits : Splits true pre (some rex) (0x0F :: bs) :=
    ⟨(legacyOrders_spec pre hpre).1, fun b hb => by cases hb; exact ⟨rfl, (rexByte_iff rex).1 hrex⟩, nofun⟩
  have h := decode_of_splits hsplits
  rw [Option.toList_some, List.append_assoc] at h
  exact h

theorem decode_of_rex_refused {r : DecodeRefusal} (h : firstRefusal (legacyRefusals true pre rex) = some r) :
    decode true (pre ++ rex :: 0x0F :: e.opcode :: bs) = .refuse r := by
  rw [decode_of_rex hpre hrex]
  simp only [decodeLegacy, elemOf_opcode, Option.getD_some, h]
  rfl

end Rex

end Sys2Proof.Laws

namespace Sys2Proof.Proofs

open Laws

/-- Settles O9: each field, changed in bytes of which nothing is refused. -/
theorem eachReservedEvexFieldHasItsVerdict : Obligations.EachReservedEvexFieldHasItsVerdict := by
  intro mode64 pre hpre p0 p1 p2 op bs rest i h
  obtain ⟨hopens, heq⟩ := decodeEvex_of_decode hpre h
  obtain ⟨e, modrm, code, src2, hbytes, hnone, hread, hstray, hud, rfl⟩ := decodeEvex_eq_instr heq
  obtain ⟨rfl, rfl⟩ := List.cons.inj hbytes
  have hopensOf : ∀ q0 : Byte, bits q0 6 2 = bits p0 6 2 → opensVex mode64 q0 = true := fun q0 hq =>
    (opensVex_congr hq).trans hopens
  refine ⟨fun r hr => ?_, ?_, ?_, ?_, fun hmode => ?_, ?_, fun hop hreg => ?_, fun hop => ?_, fun hop => ?_⟩
  · simp only [List.mem_cons, List.not_mem_nil, or_false] at hr
    rcases hr with rfl | rfl
    · exact decode_of_evex_refused hpre (hopensOf _ (bits_or (by decide) p0)) e
        (firstRefusal_reserved mode64 pre (.inl (by simp [bits_two])) _) code
    · exact decode_of_evex_refused hpre (hopensOf _ (bits_or (by decide) p0)) e
        (firstRefusal_reserved mode64 pre (.inl (by simp [bits_two])) _) code
  · exact decode_of_evex_refused hpre hopens e
      (firstRefusal_reserved mode64 pre (.inr (by rw [bits_and_zero (by decide)]; decide)) _) code
  · exact decode_of_evex_refused hpre hopens e (firstRefusal_ll hnone (by simp [bits_two]) _) code
  · exact decode_of_evex_refused hpre hopens e
      (firstRefusal_z hnone (bits_or (by decide) p2) (bits_or_one (by decide) p2) _) code
  · have hopens64 : opensVex mode64 (p0 &&& 0x7F) = true := opensVex_eq_true.2 fun hm => by
      rw [hmode] at hm
      cases hm
    exact decode_of_evex_refused hpre hopens64 e
      (firstRefusal_storedR hnone (bits_and (by decide) p0) (bits_and (by decide) p0)
        (.inl (bits_and_zero (by decide) p0))) code
  · exact decode_of_evex_refused hpre (hopensOf _ (bits_and (by decide) p0)) e
      (firstRefusal_storedR hnone (bits_and (by decide) p0) (bits_and (by decide) p0)
        (.inr (bits_and_zero (by decide) p0))) code
  · obtain ⟨m, hm, h7, h6⟩ := hreg
    cases hm
    have hround : evexRound e (p2 ||| 0x10) modrm = true := by
      rw [(opcode_eq_76 e).1 hop, evexRound, bits_or_one (by decide), bits_two, h7, h6]
      rfl
    refine decode_of_evex_refused hpre hopens e ?_ code
    rw [hround]
    exact firstRefusal_round hnone (bits_or (by decide) p2) (bits_or (by decide) p2)
  · have hsame : evexRefusals mode64 pre p0 (p1 ||| 0x80) p2 (evexRound e p2 modrm)
        = evexRefusals mode64 pre p0 p1 p2 (evexRound e p2 modrm) := by
      rw [evexRefusals, evexRefusals, bits_or (lo := 2) (n := 1) (by decide) p1, bits_or (lo := 0) (n := 2) (by decide) p1,
        barred_congr (bits_or (lo := 3) (n := 4) (by decide) p1)]
    have hinstr : evexInstr (pre.contains 0x67) (p1 ||| 0x80) p2 modrm e src2
        = evexInstr (pre.contains 0x67) p1 p2 modrm e src2 := by
      rw [evexInstr_eq, evexInstr_eq, barred_congr (bits_or (lo := 3) (n := 4) (by decide) p1)]
    have hraises : evexUd e (p1 ||| 0x80) p2 = true := by
      rw [(opcode_eq_76 e).1 hop, evexUd, bits_or_one (by decide)]
      rfl
    rw [← hinstr]
    exact decode_of_evex_ud hpre hopens (by rw [hsame]; exact hnone) hread hstray hraises
  · have hrow : e ≠ .dword := fun he => by
      rw [he] at hop
      exact absurd hop (by decide)
    have hround : ∀ q2, evexRound e q2 modrm = false := fun q2 => by
      rw [evexRound, beq_eq_false_iff_ne.2 hrow]
      rfl
    have hsame : evexRefusals mode64 pre p0 p1 (p2 ||| 0x10) (evexRound e (p2 ||| 0x10) modrm)
        = evexRefusals mode64 pre p0 p1 p2 (evexRound e p2 modrm) := by
      rw [hround, hround, evexRefusals, evexRefusals, bits_or (lo := 5) (n := 2) (by decide) p2,
        bits_or (lo := 7) (n := 1) (by decide) p2, barred_congr (bits_or (lo := 3) (n := 1) (by decide) p2)]
    have hinstr : evexInstr (pre.contains 0x67) p1 (p2 ||| 0x10) modrm e src2
        = evexInstr (pre.contains 0x67) p1 p2 modrm e src2 := by
      have hform : ∀ ll bc a dst mask src1, evexForm e ll bc a dst mask src1 src2 = evexForm e ll 0 a dst mask src1 src2 :=
        fun ll bc a dst mask src1 => by
          cases e with
          | dword => exact absurd rfl hrow
          | byte => rfl
          | word => rfl
      rw [evexInstr_eq, evexInstr_eq, bits_or (lo := 5) (n := 2) (by decide) p2, bits_or (lo := 0) (n := 3) (by decide) p2,
        barred_congr (bits_or (lo := 3) (n := 1) (by decide) p2), hform, hform _ (bits p2 4 1)]
    have hraises : evexUd e p1 (p2 ||| 0x10) = true := by
      rw [evexUd_eq, evexBodyUd_of_ne hrow, bits_or_one (by decide)]
      rfl
    rw [← hinstr]
    exact decode_of_evex_ud hpre hopens (by rw [hsame]; exact hnone) hread hstray hraises

/-- Settles O13: a REX bit is refused before ModRM is read, or with a register operand. -/
theorem refusedRexBitsAreNamed : Obligations.RefusedRexBitsAreNamed := by
  intro rex op bs hrex hop
  obtain ⟨e, rfl⟩ := exists_elem hop
  refine ⟨fun pre hpre hW => ?_, fun pre haddr hW => ⟨fun hR => ?_, fun hR hB hreg => ?_⟩⟩
  · obtain ⟨-, hrep, hseg, hrepeat⟩ := legacyOrders_spec pre hpre
    have hw : bits rex 3 1 = 1 := by rw [bits_one, hW]; rfl
    refine decode_of_rex_refused hpre hrex ?_
    simp only [legacyRefusals, firstRefusal, hrep, hseg, hrepeat, hw, BEq.rfl, Bool.false_eq_true, if_false, if_true]
  · obtain ⟨hpre, h66⟩ := addrOrders_spec pre haddr
    obtain ⟨-, hrep, hseg, hrepeat⟩ := legacyOrders_spec pre hpre
    have hw : bits rex 3 1 = 0 := by rw [bits_one, hW]; rfl
    have hr : bits rex 2 1 = 1 := by rw [bits_one, hR]; rfl
    refine decode_of_rex_refused hpre hrex ?_
    simp only [legacyRefusals, firstRefusal, hrep, hseg, hrepeat, hw, hr, h66, Nat.reduceBEq, Bool.not_false, Bool.and_self,
      Bool.false_eq_true, if_false, if_true]
  · obtain ⟨hpre, h66⟩ := addrOrders_spec pre haddr
    obtain ⟨-, hrep, hseg, hrepeat⟩ := legacyOrders_spec pre hpre
    obtain ⟨modrm, hm, h7, h6⟩ := hreg
    cases bs with
    | nil => cases hm
    | cons b bs =>
      cases hm
      have hw : bits rex 3 1 = 0 := by rw [bits_one, hW]; rfl
      have hr : bits rex 2 1 = 0 := by rw [bits_one, hR]; rfl
      have hb : bits rex 0 1 = 1 := by rw [bits_one, hB]; rfl
      have hmod : bits modrm 6 2 = 3 := by rw [bits_two, h7, h6]; rfl
      have hnone : firstRefusal (legacyRefusals true pre rex) = none := by
        simp only [legacyRefusals, firstRefusal, hrep, hseg, hrepeat, hw, hr, Nat.reduceBEq, Bool.not_true, Bool.and_false,
          Bool.false_eq_true, if_false]
      rw [decode_of_rex hpre hrex, decodeLegacy_modrm, Option.getD_some, orRefused_of_none hnone]
      simp only [decodeLegacyOperands, h66, hmod, hb, and_self, Bool.false_eq_true, if_false, if_true]
      rfl

end Sys2Proof.Proofs
end

section
/-! O14, O15. Bytes that end early: what the shapes answer on them, how many bytes follow ModRM at least (R65, R78), and bytes
that complete them. -/

namespace Sys2Proof.Laws

variable {mode64 : Bool} {P : List Byte} {rex : Option Byte}

theorem orRefused_eq_more {l : List (Bool × DecodeRefusal)} {d : Decoded} {next : Missing} :
    d.orRefused l = .more next ↔ firstRefusal l = none ∧ d = .more next := by
  unfold Decoded.orRefused
  cases firstRefusal l <;> simp

/-! ### How many bytes follow ModRM (R65, R78) -/

theorem mod_lt_three {modrm : Byte} (h : bits modrm 6 2 ≠ 3) : bits modrm 6 2 < 3 := by
  have := bits_lt modrm 6 2
  omega

theorem readD32_of_length {bs : List Byte} (h : bs.length = 4) : ∃ d, readD32 bs = some (d, []) := by
  match bs, h with
  | [b0, b1, b2, b3], _ => exact ⟨_, rfl⟩

/-- The bytes of the displacement that mod 0, 1 or 2 selects. -/
def dispLen (mod : Nat) : Nat := if mod = 0 then 0 else if mod = 1 then 1 else 4

theorem length_of_readD32 {bs rest : List Byte} {d : BitVec 32} (h : readD32 bs = some (d, rest)) :
    bs.length = 4 + rest.length := by
  rw [readD32_eq_some h, List.length_append]
  rfl

theorem length_of_readDisp {mod : Nat} {bs rest : List Byte} {d : Disp} (hmod : mod < 3)
    (h : readDisp mod bs = some (d, rest)) : bs.length = dispLen mod + rest.length := by
  obtain ⟨rfl, rfl⟩ := readDisp_eq_some hmod h
  rw [List.length_append]
  cases d <;> rfl

theorem readD32_completes {bs : List Byte} (h : readD32 bs = none) :
    ∃ u d, readD32 (bs ++ u) = some (d, []) ∧ (bs ++ u).length = 4 := by
  have hlen : bs.length ≤ 4 := by
    match bs, h with
    | [], _ => simp
    | [_], _ => simp
    | [_, _], _ => simp
    | [_, _, _], _ => simp
  have hfour : (bs ++ List.replicate (4 - bs.length) 0).length = 4 := by
    rw [List.length_append, List.length_replicate]
    omega
  obtain ⟨d, hd⟩ := readD32_of_length hfour
  exact ⟨_, d, hd, hfour⟩

theorem readDisp_completes {mod : Nat} (hmod : mod < 3) {bs : List Byte} (h : readDisp mod bs = none ∨ bs = []) :
    ∃ u d, readDisp mod (bs ++ u) = some (d, []) ∧ (bs ++ u).length = dispLen mod := by
  match mod, hmod with
  | 0, _ =>
    rcases h with h | rfl
    · cases h
    · exact ⟨[], _, rfl, rfl⟩
  | 1, _ =>
    cases bs with
    | nil => exact ⟨[0], _, rfl, rfl⟩
    | cons b bs =>
      rcases h with h | h
      · cases h
      · cases h
  | 2, _ =>
    have hnone : readD32 bs = none := by
      rcases h with h | rfl
      · simp only [readDisp, OfNat.ofNat_ne_zero, if_false, OfNat.ofNat_ne_one] at h
        split at h
        · cases h
        · next hnone => exact hnone
      · rfl
    obtain ⟨u, d, hd, hlen⟩ := readD32_completes hnone
    exact ⟨u, .d32 d, by simp [readDisp, hd], hlen⟩

section Operand

variable {x b : Nat}

theorem readMem_sib_nobase {sib : Byte} (h5 : bits sib 0 3 = 5) {bs rest : List Byte} {d : BitVec 32}
    (hd : readD32 bs = some (d, rest)) :
    readMem 0 4 x b (sib :: bs)
      = some (.sibNoBase (Fin.ofNat 16 (8 * x + bits sib 3 3)) (Fin.ofNat 4 (bits sib 6 2)) d, rest) := by
  simp only [readMem, h5, hd, and_self, if_true]

theorem readMem_sib {mod : Nat} {sib : Byte} (hbase : ¬ (mod = 0 ∧ bits sib 0 3 = 5)) {bs rest : List Byte} {d : Disp}
    (hd : readDisp mod bs = some (d, rest)) :
    readMem mod 4 x b (sib :: bs) = some (.sib (Fin.ofNat 16 (8 * b + bits sib 0 3)) (Fin.ofNat 16 (8 * x + bits sib 3 3))
      (Fin.ofNat 4 (bits sib 6 2)) d, rest) := by
  simp only [readMem, hbase, hd, if_true, if_false]

theorem readMem_dispOnly {bs rest : List Byte} {d : BitVec 32} (hd : readD32 bs = some (d, rest)) :
    readMem 0 5 x b bs = some (.dispOnly d, rest) := by
  simp [readMem, hd]

theorem readMem_base {mod rm : Nat} (h4 : rm ≠ 4) (h5 : ¬ (mod = 0 ∧ rm = 5)) {bs rest : List Byte} {d : Disp}
    (hd : readDisp mod bs = some (d, rest)) :
    readMem mod rm x b bs = some (.base (Fin.ofNat 16 (8 * b + rm)) d, rest) := by
  simp only [readMem, h4, h5, hd, if_false]

/-- The bytes of SIB and displacement that mod, rm and the SIB byte select (R65). -/
def memTailLen (mod rm : Nat) (sib : Option Byte) : Nat :=
  if rm = 4 then if mod = 0 ∧ sib.any (fun c => bits c 0 3 == 5) = true then 5 else 1 + dispLen mod
  else if mod = 0 ∧ rm = 5 then 4 else dispLen mod

theorem tailLen_of_mem {modrm : Byte} (hmod : bits modrm 6 2 ≠ 3) (sib : Option Byte) :
    tailLen modrm sib = memTailLen (bits modrm 6 2) (bits modrm 0 3) sib := by
  have hlt := mod_lt_three hmod
  rw [tailLen, if_neg hmod]
  generalize bits modrm 6 2 = mod at hlt
  generalize bits modrm 0 3 = rm
  unfold memTailLen dispLen
  by_cases h4 : rm = 4
  · subst h4
    cases sib.any (fun c => bits c 0 3 == 5) <;> interval_cases mod <;> rfl
  · by_cases h5 : rm = 5
    · subst h5
      interval_cases mod <;> rfl
    · simp only [h4, h5, if_false, false_and, and_false, or_false, Nat.zero_add]
      interval_cases mod <;> rfl

theorem memTailLen_sib (mod : Nat) (sib : Byte) (bs : List Byte) :
    memTailLen mod 4 (sib :: bs).head? = if mod = 0 ∧ bits sib 0 3 = 5 then 5 else 1 + dispLen mod := by
  simp only [memTailLen, if_true, List.head?_cons, Option.any_some, beq_iff_eq]

/-- The operand is as many bytes long as ModRM and the SIB byte say. -/
theorem length_of_readMem {mod rm : Nat} {bs rest : List Byte} {m : MemOp} (hmod : mod < 3)
    (h : readMem mod rm x b bs = some (m, rest)) : bs.length = memTailLen mod rm bs.head? + rest.length := by
  unfold readMem at h
  split at h
  · next h4 =>
    subst h4
    cases bs with
    | nil => cases h
    | cons sib bs =>
      simp only at h
      rw [memTailLen_sib, List.length_cons]
      split at h
      · next hnobase =>
        rw [if_pos hnobase]
        split at h
        · next hd =>
          cases h
          have := length_of_readD32 hd
          omega
        · cases h
      · next hbase =>
        rw [if_neg hbase]
        split at h
        · next hd =>
          cases h
          have := length_of_readDisp hmod hd
          omega
        · cases h
  · next h4 =>
    rw [memTailLen, if_neg h4]
    split at h
    · next hdisp =>
      rw [if_pos hdisp]
      split at h
      · next hd => cases h; exact length_of_readD32 hd
      · cases h
    · next hdisp =>
      rw [if_neg hdisp]
      split at h
      · next hd => cases h; exact length_of_readDisp hmod hd
      · cases h

/-- Bytes that do not hold the operand go on to as few as ModRM and a SIB byte that is there allow. -/
theorem readMem_completes {mod rm : Nat} {bs : List Byte} (hmod : mod < 3) (h : readMem mod rm x b bs = none) :
    ∃ u m, readMem mod rm x b (bs ++ u) = some (m, []) ∧ (bs ++ u).length = memTailLen mod rm bs.head? := by
  by_cases h4 : rm = 4
  · subst h4
    cases bs with
    | nil =>
      rw [memTailLen, if_pos rfl]
      obtain ⟨u, d, hd, hlen⟩ := readDisp_completes hmod (bs := []) (.inr rfl)
      have hbase : ¬ (mod = 0 ∧ bits 0 0 3 = 5) := fun h5 => absurd h5.2 (by decide)
      refine ⟨0 :: u, _, readMem_sib hbase hd, ?_⟩
      rw [List.head?_nil, Option.any_none, if_neg (fun hany => Bool.false_ne_true hany.2), ← hlen, List.nil_append,
        List.nil_append, List.length_cons, Nat.add_comm]
    | cons sib bs =>
      rw [memTailLen_sib]
      by_cases hnobase : mod = 0 ∧ bits sib 0 3 = 5
      · obtain ⟨rfl, h5⟩ := hnobase
        have hnone : readD32 bs = none := by
          cases hd : readD32 bs with
          | none => rfl
          | some r => rw [readMem_sib_nobase h5 (d := r.1) (rest := r.2) hd] at h; cases h
        obtain ⟨u, d, hd, hlen⟩ := readD32_completes hnone
        refine ⟨u, _, readMem_sib_nobase h5 hd, ?_⟩
        rw [if_pos ⟨rfl, h5⟩, List.cons_append, List.length_cons, hlen]
      · have hnone : readDisp mod bs = none := by
          cases hd : readDisp mod bs with
          | none => rfl
          | some r => rw [readMem_sib hnobase (d := r.1) (rest := r.2) hd] at h; cases h
        obtain ⟨u, d, hd, hlen⟩ := readDisp_completes hmod (.inl hnone)
        refine ⟨u, _, readMem_sib hnobase hd, ?_⟩
        rw [if_neg hnobase, List.cons_append, List.length_cons, hlen, Nat.add_comm]
  · rw [memTailLen, if_neg h4]
    by_cases h5 : mod = 0 ∧ rm = 5
    · rw [if_pos h5]
      obtain ⟨rfl, rfl⟩ := h5
      have hnone : readD32 bs = none := by
        cases hd : readD32 bs with
        | none => rfl
        | some r => rw [readMem_dispOnly (d := r.1) (rest := r.2) hd] at h; cases h
      obtain ⟨u, d, hd, hlen⟩ := readD32_completes hnone
      exact ⟨u, _, readMem_dispOnly hd, hlen⟩
    · rw [if_neg h5]
      have hnone : readDisp mod bs = none := by
        cases hd : readDisp mod bs with
        | none => rfl
        | some r => rw [readMem_base h4 h5 (d := r.1) (rest := r.2) hd] at h; cases h
      obtain ⟨u, d, hd, hlen⟩ := readDisp_completes hmod (.inl hnone)
      exact ⟨u, _, readMem_base h4 h5 hd, hlen⟩

variable {n : Nat} [NeZero n] {modrm : Byte} {reg : Nat} {bs : List Byte}

theorem readRm_of_register (h : bits modrm 6 2 = 3) (bs : List Byte) :
    readRm n modrm reg x b bs = some (.reg (Fin.ofNat n reg), bs) := if_pos h

theorem readRm_of_mem {rest : List Byte} {m : MemOp} (h : bits modrm 6 2 ≠ 3)
    (hm : readMem (bits modrm 6 2) (bits modrm 0 3) x b bs = some (m, rest)) :
    readRm n modrm reg x b bs = some (.mem m, rest) := by
  rw [readRm, if_neg h, hm]

theorem readRm_none (h : readRm n modrm reg x b bs = none) :
    bits modrm 6 2 ≠ 3 ∧ readMem (bits modrm 6 2) (bits modrm 0 3) x b bs = none := by
  have hmod : bits modrm 6 2 ≠ 3 := fun h3 => by
    rw [readRm_of_register h3] at h
    cases h
  refine ⟨hmod, ?_⟩
  cases hm : readMem (bits modrm 6 2) (bits modrm 0 3) x b bs with
  | none => rfl
  | some r => rw [readRm_of_mem hmod (m := r.1) (rest := r.2) hm] at h; cases h

theorem readRm_completes (h : readRm n modrm reg x b bs = none) :
    ∃ u src, readRm n modrm reg x b (bs ++ u) = some (src, []) ∧ (bs ++ u).length = tailLen modrm bs.head? := by
  obtain ⟨hmod, hnone⟩ := readRm_none h
  have hlt := mod_lt_three hmod
  obtain ⟨u, m, hm, hlen⟩ := readMem_completes hlt hnone
  exact ⟨u, _, readRm_of_mem hmod hm, hlen.trans (tailLen_of_mem hmod _).symm⟩

/-- Bytes that do not hold the operand need no more bytes than any bytes that they go on to and that hold it. -/
theorem tailLen_le {u rest : List Byte} {src : Rm n} (h : readRm n modrm reg x b bs = none)
    (hread : readRm n modrm reg x b (bs ++ u) = some (src, rest)) : tailLen modrm bs.head? ≤ (bs ++ u).length := by
  obtain ⟨hmod, -⟩ := readRm_none h
  have hlt := mod_lt_three hmod
  rw [readRm, if_neg hmod] at hread
  split at hread
  · next m bs' hm =>
    have hlen := length_of_readMem hlt hm
    rw [tailLen_of_mem hmod, hlen]
    cases bs with
    | cons c bs => exact Nat.le_add_right _ _
    | nil =>
      have hdisp : dispLen (bits modrm 6 2) ≤ 4 := by
        unfold dispLen
        split_ifs <;> decide
      simp only [List.head?_nil, memTailLen, Option.any_none, Bool.false_eq_true, and_false, if_false]
      split_ifs <;> omega
  · cases hread

end Operand

end Sys2Proof.Laws
end

section
/-! O14, O15. The shapes on bytes that end early: what completes them, and that bytes which go on to accepted ones are not
refused. -/

namespace Sys2Proof.Laws

variable {mode64 : Bool} {P : List Byte} {rex : Option Byte}

theorem not_refuse_of_accepted {d : Decoded} (h : d.accepted = true) (r : DecodeRefusal) : d ≠ .refuse r := by
  rintro rfl
  cases h

theorem not_more_of_accepted {d : Decoded} {next : Missing} (h : d.accepted = true) : d ≠ .more next := by
  rintro rfl
  cases h

theorem moreUnless_eq_more {l : List (Bool × DecodeRefusal)} {missing next : Missing} (h : moreUnless missing l = .more next) :
    firstRefusal l = none := (orRefused_eq_more.1 h).1

theorem moreUnless_not_refuse {l : List (Bool × DecodeRefusal)} (h : firstRefusal l = none) (missing : Missing)
    (r : DecodeRefusal) : moreUnless missing l ≠ .refuse r := by
  rw [moreUnless_eq, orRefused_of_none h]
  nofun

theorem firstRefusal_length {before : Nat} {modrm : Byte} {bs : List Byte} :
    firstRefusal [(lengthDecided before modrm bs, .tooLong)] = none ↔ before + 1 + tailLen modrm bs.head? ≤ 15 := by
  simp [firstRefusal_eq_none, lengthDecided]

theorem tailLen_le_five (modrm : Byte) (sib : Option Byte) : tailLen modrm sib ≤ 5 := by
  unfold tailLen
  split_ifs <;> decide

/-- The ModRM byte 00 completes every form: it is a memory operand without a displacement, which no field refuses. -/
theorem readRm_zero {n : Nat} [NeZero n] (reg x b : Nat) (bs : List Byte) :
    readRm n 0 reg x b bs = some (.mem (.base (Fin.ofNat 16 (8 * b + 0)) .none), bs) := rfl

/-- The prefixes that nothing refuses are at most five. -/
theorem length_le_five (hP : ∀ b ∈ P, isPrefix b = true) (h : firstRefusal (prefixRefusals mode64 P) = none) : P.length ≤ 5 := by
  have hlen := (strays_of_prefixRefusals hP h).1.length_eq
  have hstray : (strayBytes.filter (P.contains ·)).length ≤ 4 := List.length_filter_le _ strayBytes
  have haddr := Bool.toNat_le (P.contains 0x67)
  rw [List.length_append, addrPrefix_length] at hlen
  omega

/-! ### VEX (R69, R70) -/

section Vex

variable {f : VexFields}

theorem decodeVex_opcode (e : Elem) :
    decodeVex mode64 P rex f [e.opcode] = (Decoded.more .modrm).orRefused (vexRefusals mode64 P f) := by
  cases h : firstRefusal (vexRefusals mode64 P f) <;> simp only [decodeVex, elemOf_opcode, Decoded.orRefused, h]

theorem decodeVex_short (e : Elem) {modrm : Byte} {bs : List Byte}
    (hread : readRm 16 modrm (8 * f.b + bits modrm 0 3) f.x f.b bs = none) :
    decodeVex mode64 P rex f (e.opcode :: modrm :: bs)
      = (moreUnless (missingAfter modrm bs)
          [(lengthDecided (P.length + rex.isSome.toNat + f.three.toNat + 3) modrm bs, .tooLong)]).orRefused
        (vexRefusals mode64 P f) := by
  cases h : firstRefusal (vexRefusals mode64 P f) <;> simp only [decodeVex, elemOf_opcode, hread, Decoded.orRefused, h]

theorem accepted_decodeVex (e : Elem) (hnone : firstRefusal (vexRefusals mode64 P f) = none) {modrm : Byte}
    {bs rest : List Byte} {src2 : Rm 16}
    (hread : readRm 16 modrm (8 * f.b + bits modrm 0 3) f.x f.b bs = some (src2, rest)) :
    (decodeVex mode64 P rex f (e.opcode :: modrm :: bs)).accepted = true := by
  rw [decodeVex_of_read e hread, orRefused_of_none hnone, accepted_answer]

theorem accepted_decodeVex_zero (e : Elem) (hnone : firstRefusal (vexRefusals mode64 P f) = none) :
    (decodeVex mode64 P rex f [e.opcode, 0]).accepted = true := accepted_decodeVex e hnone (readRm_zero ..)

theorem decodeVex_completes (hP : firstRefusal (prefixRefusals mode64 P) = none → P.length ≤ 5)
    {bs : List Byte} {next : Missing}
    (h : decodeVex mode64 P rex f bs = .more next) :
    ∃ u, (decodeVex mode64 P rex f (bs ++ u)).accepted = true
      ∧ P.length + rex.isSome.toNat + (f.three.toNat + 2 + (bs ++ u).length) ≤ 15 := by
  have hrex := Bool.toNat_le rex.isSome
  have hthree := Bool.toNat_le f.three
  have hfive : firstRefusal (vexRefusals mode64 P f) = none → P.length ≤ 5 := fun hnone =>
    hP ((vexRefusals_eq_none mode64 P).1 hnone).1
  match bs with
  | [] =>
    have hnone := moreUnless_eq_more h
    have hfive := hfive hnone
    exact ⟨[Elem.opcode .byte, 0], accepted_decodeVex_zero .byte hnone, by simp; omega⟩
  | op :: bs =>
    cases he : elemOf op with
    | none => simp [decodeVex, he] at h
    | some e =>
      cases elemOf_eq_some he
      match bs with
      | [] =>
        rw [decodeVex_opcode] at h
        have hnone := (orRefused_eq_more.1 h).1
        have hfive := hfive hnone
        exact ⟨[0], accepted_decodeVex_zero e hnone, by simp; omega⟩
      | modrm :: bs =>
        cases hread : readRm 16 modrm (8 * f.b + bits modrm 0 3) f.x f.b bs with
        | some r =>
          rw [decodeVex_of_read e (src2 := r.1) (rest := r.2) hread, orRefused_eq_more] at h
          exact absurd h.2 (not_more_of_accepted (accepted_answer ..))
        | none =>
          rw [decodeVex_short e hread, orRefused_eq_more] at h
          obtain ⟨hnone, hmore⟩ := h
          have hbound := firstRefusal_length.1 (moreUnless_eq_more hmore)
          obtain ⟨u, src2, hsrc2, hlen⟩ := readRm_completes hread
          refine ⟨u, accepted_decodeVex e hnone hsrc2, ?_⟩
          rw [List.cons_append, List.cons_append, List.length_cons, List.length_cons, hlen]
          omega

theorem decodeVex_not_refused {bs u : List Byte} (h : (decodeVex mode64 P rex f (bs ++ u)).accepted = true)
    (hlen : P.length + rex.isSome.toNat + (f.three.toNat + 2 + (bs ++ u).length) ≤ 15) (r : DecodeRefusal) :
    decodeVex mode64 P rex f bs ≠ .refuse r := by
  obtain ⟨hnone, e, modrm, code, src2, rest, hbytes, hread⟩ := decodeVex_accepted h
  match bs with
  | [] => exact moreUnless_not_refuse hnone _ r
  | [op] =>
    cases (List.cons.inj hbytes).1
    rw [decodeVex_opcode, orRefused_of_none hnone]
    nofun
  | op :: m :: bs =>
    simp only [List.cons_append, List.cons.injEq] at hbytes
    obtain ⟨rfl, rfl, rfl⟩ := hbytes
    cases hshort : readRm 16 m (8 * f.b + bits m 0 3) f.x f.b bs with
    | some s => exact not_refuse_of_accepted (accepted_decodeVex e hnone (src2 := s.1) (rest := s.2) hshort) r
    | none =>
      rw [decodeVex_short e hshort, orRefused_of_none hnone]
      refine moreUnless_not_refuse (firstRefusal_length.2 ?_) _ r
      have hle := tailLen_le hshort hread
      simp only [List.cons_append, List.length_cons] at hlen
      omega

end Vex

/-! ### EVEX (R71 to R73) -/

section Evex

variable {p0 p1 p2 : Byte}

theorem decodeEvex_opcode (e : Elem) :
    decodeEvex mode64 P rex p0 p1 p2 [e.opcode] = (Decoded.more .modrm).orRefused (evexRefusals mode64 P p0 p1 p2 false) := by
  cases h : firstRefusal (evexRefusals mode64 P p0 p1 p2 false) <;>
    simp only [decodeEvex, elemOf_opcode, List.head?_nil, Option.any_none, Bool.and_false, Decoded.orRefused, h]

theorem decodeEvex_short (e : Elem) {modrm : Byte} {bs : List Byte}
    (hread : readRm 32 modrm (16 * barred p0 6 1 + 8 * barred p0 5 1 + bits modrm 0 3) (barred p0 6 1) (barred p0 5 1) bs
      = none) :
    decodeEvex mode64 P rex p0 p1 p2 (e.opcode :: modrm :: bs)
      = (moreUnless (missingAfter modrm bs) [(lengthDecided (P.length + rex.isSome.toNat + 5) modrm bs, .tooLong)]).orRefused
        (evexRefusals mode64 P p0 p1 p2 (evexRound e p2 modrm)) := by
  cases h : firstRefusal (evexRefusals mode64 P p0 p1 p2 (evexRound e p2 modrm)) <;>
    (unfold evexRound at h ⊢
     simp only [decodeEvex, elemOf_opcode, hread, List.head?_cons, Option.any_some, Decoded.orRefused, h])

theorem accepted_decodeEvex (e : Elem) {modrm : Byte}
    (hnone : firstRefusal (evexRefusals mode64 P p0 p1 p2 (evexRound e p2 modrm)) = none)
    {bs rest : List Byte} {src2 : Rm 32}
    (hread : readRm 32 modrm (16 * barred p0 6 1 + 8 * barred p0 5 1 + bits modrm 0 3) (barred p0 6 1) (barred p0 5 1) bs
      = some (src2, rest)) :
    (decodeEvex mode64 P rex p0 p1 p2 (e.opcode :: modrm :: bs)).accepted = true := by
  rw [decodeEvex_of_read e hread, orRefused_of_none hnone, accepted_answer]

theorem evexRound_zero (e : Elem) (p2 : Byte) : evexRound e p2 0 = false := Bool.and_false _

theorem accepted_decodeEvex_zero (e : Elem) (hnone : firstRefusal (evexRefusals mode64 P p0 p1 p2 false) = none) :
    (decodeEvex mode64 P rex p0 p1 p2 [e.opcode, 0]).accepted = true :=
  accepted_decodeEvex e (by rwa [evexRound_zero]) (readRm_zero ..)

/-- Without a ModRM byte EVEX bytes are refused for less. -/
theorem evexRefusals_no_round {round : Bool} (h : firstRefusal (evexRefusals mode64 P p0 p1 p2 round) = none) :
    firstRefusal (evexRefusals mode64 P p0 p1 p2 false) = none := by
  rw [evexRefusals_eq_none] at h ⊢
  obtain ⟨hprefixes, hres, hrow, hll, hz, -, hrest⟩ := h
  exact ⟨hprefixes, hres, hrow, hll, hz, rfl, hrest⟩

theorem decodeEvex_completes (hP : firstRefusal (prefixRefusals mode64 P) = none → P.length ≤ 5)
    {bs : List Byte} {next : Missing}
    (h : decodeEvex mode64 P rex p0 p1 p2 bs = .more next) :
    ∃ u, (decodeEvex mode64 P rex p0 p1 p2 (bs ++ u)).accepted = true
      ∧ P.length + rex.isSome.toNat + (4 + (bs ++ u).length) ≤ 15 := by
  have hrex := Bool.toNat_le rex.isSome
  have hfive : firstRefusal (evexRefusals mode64 P p0 p1 p2 false) = none → P.length ≤ 5 := fun hnone =>
    hP ((evexRefusals_eq_none mode64 P).1 hnone).1
  match bs with
  | [] =>
    have hnone := moreUnless_eq_more h
    have hfive := hfive hnone
    exact ⟨[Elem.opcode .byte, 0], accepted_decodeEvex_zero .byte hnone, by simp; omega⟩
  | op :: bs =>
    cases he : elemOf op with
    | none => simp [decodeEvex, he] at h
    | some e =>
      cases elemOf_eq_some he
      match bs with
      | [] =>
        rw [decodeEvex_opcode] at h
        have hnone := (orRefused_eq_more.1 h).1
        have hfive := hfive hnone
        exact ⟨[0], accepted_decodeEvex_zero e hnone, by simp; omega⟩
      | modrm :: bs =>
        cases hread : readRm 32 modrm (16 * barred p0 6 1 + 8 * barred p0 5 1 + bits modrm 0 3) (barred p0 6 1)
            (barred p0 5 1) bs with
        | some r =>
          rw [decodeEvex_of_read e (src2 := r.1) (rest := r.2) hread, orRefused_eq_more] at h
          exact absurd h.2 (not_more_of_accepted (accepted_answer ..))
        | none =>
          rw [decodeEvex_short e hread, orRefused_eq_more] at h
          obtain ⟨hnone, hmore⟩ := h
          have hbound := firstRefusal_length.1 (moreUnless_eq_more hmore)
          obtain ⟨u, src2, hsrc2, hlen⟩ := readRm_completes hread
          refine ⟨u, accepted_decodeEvex e hnone hsrc2, ?_⟩
          rw [List.cons_append, List.cons_append, List.length_cons, List.length_cons, hlen]
          omega

theorem decodeEvex_not_refused {bs u : List Byte} (h : (decodeEvex mode64 P rex p0 p1 p2 (bs ++ u)).accepted = true)
    (hlen : P.length + rex.isSome.toNat + (4 + (bs ++ u).length) ≤ 15) (r : DecodeRefusal) :
    decodeEvex mode64 P rex p0 p1 p2 bs ≠ .refuse r := by
  obtain ⟨e, modrm, code, src2, rest, hbytes, hnone, hread⟩ := decodeEvex_accepted h
  match bs with
  | [] => exact moreUnless_not_refuse (evexRefusals_no_round hnone) _ r
  | [op] =>
    cases (List.cons.inj hbytes).1
    rw [decodeEvex_opcode, orRefused_of_none (evexRefusals_no_round hnone)]
    nofun
  | op :: m :: bs =>
    simp only [List.cons_append, List.cons.injEq] at hbytes
    obtain ⟨rfl, rfl, rfl⟩ := hbytes
    cases hshort : readRm 32 m (16 * barred p0 6 1 + 8 * barred p0 5 1 + bits m 0 3) (barred p0 6 1) (barred p0 5 1) bs with
    | some s => exact not_refuse_of_accepted (accepted_decodeEvex e hnone (src2 := s.1) (rest := s.2) hshort) r
    | none =>
      rw [decodeEvex_short e hshort, orRefused_of_none hnone]
      refine moreUnless_not_refuse (firstRefusal_length.2 ?_) _ r
      have hle := tailLen_le hshort hread
      simp only [List.cons_append, List.length_cons] at hlen
      omega

end Evex

/-! ### Legacy (R68) -/

section Legacy

theorem decodeLegacy_opcode (e : Elem) :
    decodeLegacy mode64 P rex [e.opcode] = (Decoded.more .modrm).orRefused (legacyRefusals mode64 P (rex.getD 0)) := by
  cases h : firstRefusal (legacyRefusals mode64 P (rex.getD 0)) <;>
    simp only [decodeLegacy, elemOf_opcode, Decoded.orRefused, h]

section Operands

variable {isRex : Bool} {rexBits modrm : Byte} {e : Elem} {bs : List Byte}

theorem accepted_decodeLegacyOperands_zero :
    (decodeLegacyOperands P isRex rexBits e 0 []).accepted = true := by
  cases h66 : P.contains 0x66 with
  | true => rw [decodeLegacyOperands_xmm e h66 (readRm_zero ..), accepted_answer]
  | false => rw [decodeLegacyOperands_mm e h66 (fun h3 => absurd h3.1 (by decide)) (readRm_zero ..), accepted_answer]

theorem decodeLegacyOperands_completes {next : Missing} (h : decodeLegacyOperands P isRex rexBits e modrm bs = .more next) :
    ∃ u, (decodeLegacyOperands P isRex rexBits e modrm (bs ++ u)).accepted = true
      ∧ (bs ++ u).length = tailLen modrm bs.head? := by
  cases h66 : P.contains 0x66 with
  | true =>
    cases hread : readRm 16 modrm (8 * bits rexBits 0 1 + bits modrm 0 3) (bits rexBits 1 1) (bits rexBits 0 1) bs with
    | none =>
      obtain ⟨u, src, hsrc, hlen⟩ := readRm_completes hread
      exact ⟨u, by rw [decodeLegacyOperands_xmm e h66 hsrc, accepted_answer], hlen⟩
    | some r =>
      rw [decodeLegacyOperands_xmm e h66 (src := r.1) (rest := r.2) hread] at h
      exact absurd h (not_more_of_accepted (accepted_answer ..))
  | false =>
    by_cases hreg : bits modrm 6 2 = 3 ∧ bits rexBits 0 1 = 1
    · simp only [decodeLegacyOperands, h66, if_pos hreg, Bool.false_eq_true, if_false] at h
      cases h
    cases hread : readRm 8 modrm (bits modrm 0 3) (bits rexBits 1 1) (bits rexBits 0 1) bs with
    | none =>
      obtain ⟨u, src, hsrc, hlen⟩ := readRm_completes hread
      exact ⟨u, by rw [decodeLegacyOperands_mm e h66 hreg hsrc, accepted_answer], hlen⟩
    | some r =>
      rw [decodeLegacyOperands_mm e h66 hreg (src := r.1) (rest := r.2) hread] at h
      exact absurd h (not_more_of_accepted (accepted_answer ..))

theorem decodeLegacyOperands_not_refused {u : List Byte}
    (h : (decodeLegacyOperands P isRex rexBits e modrm (bs ++ u)).accepted = true) (r : DecodeRefusal) :
    decodeLegacyOperands P isRex rexBits e modrm bs ≠ .refuse r := by
  rcases decodeLegacyOperands_accepted h with ⟨h66, -⟩ | ⟨h66, hreg, -⟩
  · cases hread : readRm 16 modrm (8 * bits rexBits 0 1 + bits modrm 0 3) (bits rexBits 1 1) (bits rexBits 0 1) bs with
    | none =>
      simp only [decodeLegacyOperands, h66, hread, if_true]
      nofun
    | some s =>
      rw [decodeLegacyOperands_xmm e h66 (src := s.1) (rest := s.2) hread]
      exact not_refuse_of_accepted (accepted_answer ..) r
  · cases hread : readRm 8 modrm (bits modrm 0 3) (bits rexBits 1 1) (bits rexBits 0 1) bs with
    | none =>
      simp only [decodeLegacyOperands, h66, if_neg hreg, hread, Bool.false_eq_true, if_false]
      nofun
    | some s =>
      rw [decodeLegacyOperands_mm e h66 hreg (src := s.1) (rest := s.2) hread]
      exact not_refuse_of_accepted (accepted_answer ..) r

end Operands

theorem accepted_decodeLegacy_zero (e : Elem) (hnone : firstRefusal (legacyRefusals mode64 P (rex.getD 0)) = none) :
    (decodeLegacy mode64 P rex [e.opcode, 0]).accepted = true := by
  rw [decodeLegacy_modrm, orRefused_of_none hnone]
  exact accepted_decodeLegacyOperands_zero

theorem decodeLegacy_completes (hP : firstRefusal (prefixRefusals mode64 P) = none → P.length ≤ 5)
    {bs : List Byte} {next : Missing}
    (h : decodeLegacy mode64 P rex bs = .more next) :
    ∃ u, (decodeLegacy mode64 P rex (bs ++ u)).accepted = true
      ∧ P.length + rex.isSome.toNat + (1 + (bs ++ u).length) ≤ 15 := by
  have hrex := Bool.toNat_le rex.isSome
  have hfive : firstRefusal (legacyRefusals mode64 P (rex.getD 0)) = none → P.length ≤ 5 := fun hnone =>
    hP (prefixRefusals_of_legacy ((legacyRefusals_eq_none mode64 P).1 hnone).1)
  match bs with
  | [] =>
    have hnone := moreUnless_eq_more h
    have hfive := hfive hnone
    exact ⟨[Elem.opcode .byte, 0], accepted_decodeLegacy_zero .byte hnone, by simp; omega⟩
  | op :: bs =>
    cases he : elemOf op with
    | none => simp [decodeLegacy, he] at h
    | some e =>
      cases elemOf_eq_some he
      match bs with
      | [] =>
        rw [decodeLegacy_opcode] at h
        have hnone := (orRefused_eq_more.1 h).1
        have hfive := hfive hnone
        exact ⟨[0], accepted_decodeLegacy_zero e hnone, by simp; omega⟩
      | modrm :: bs =>
        rw [decodeLegacy_modrm, orRefused_eq_more] at h
        obtain ⟨hnone, hmore⟩ := h
        obtain ⟨u, hacc, hlen⟩ := decodeLegacyOperands_completes hmore
        refine ⟨u, ?_, ?_⟩
        · rw [List.cons_append, List.cons_append, decodeLegacy_modrm, orRefused_of_none hnone, hacc]
        · have hfive := hfive hnone
          have := tailLen_le_five modrm bs.head?
          rw [List.cons_append, List.cons_append, List.length_cons, List.length_cons, hlen]
          omega

theorem decodeLegacy_not_refused {bs u : List Byte} (h : (decodeLegacy mode64 P rex (bs ++ u)).accepted = true)
    (r : DecodeRefusal) : decodeLegacy mode64 P rex bs ≠ .refuse r := by
  obtain ⟨hnone, e, modrm, code, hbytes, hoperands⟩ := decodeLegacy_accepted h
  match bs with
  | [] => exact moreUnless_not_refuse hnone _ r
  | [op] =>
    cases (List.cons.inj hbytes).1
    rw [decodeLegacy_opcode, orRefused_of_none hnone]
    nofun
  | op :: m :: bs =>
    simp only [List.cons_append, List.cons.injEq] at hbytes
    obtain ⟨rfl, rfl, rfl⟩ := hbytes
    rw [decodeLegacy_modrm, orRefused_of_none hnone]
    exact decodeLegacyOperands_not_refused hoperands r

end Legacy

end Sys2Proof.Laws
end

section
/-! O14, O15. A verdict stands whatever bytes follow: bytes that end early go on to accepted ones of at most 15 bytes, and
bytes that go on to accepted ones are not refused. -/

namespace Sys2Proof.Laws

variable {mode64 : Bool} {P : List Byte} {rex : Option Byte}

/-! ### The bytes after C5, C4 and 62 that are missing: those that stand for them refuse nothing (R69, R71) -/

theorem decodeShape_vexThree_missing {v1 : Byte} (h : opensVex mode64 v1 = true) :
    decodeShape mode64 P rex [0xC4, v1] = moreUnless .opcode (vexRefusals mode64 P (vexThree v1 0x79)) := by
  simp [decodeShape, h]

theorem decodeShape_evex_missing_p1 {p0 : Byte} (h : opensVex mode64 p0 = true) :
    decodeShape mode64 P rex [0x62, p0] = moreUnless .opcode (evexRefusals mode64 P p0 0x7D 0x08 false) := by
  simp [decodeShape, h]

theorem decodeShape_evex_missing_p2 {p0 : Byte} (h : opensVex mode64 p0 = true) (p1 : Byte) :
    decodeShape mode64 P rex [0x62, p0, p1] = moreUnless .opcode (evexRefusals mode64 P p0 p1 0x08 false) := by
  simp [decodeShape, h]

theorem vexRefusals_v2 {v1 v2 : Byte} (h : firstRefusal (vexRefusals mode64 P (vexThree v1 v2)) = none) :
    firstRefusal (vexRefusals mode64 P (vexThree v1 0x79)) = none := by
  rw [vexRefusals_eq_none] at h ⊢
  obtain ⟨hprefixes, -, hmap, hext⟩ := h
  exact ⟨hprefixes, rfl, hmap, fun hm => ⟨(hext hm).1, (by decide : barred 0x79 3 4 < 8)⟩⟩

theorem evexRefusals_p2 {p0 p1 p2 : Byte} {round : Bool} (h : firstRefusal (evexRefusals mode64 P p0 p1 p2 round) = none) :
    firstRefusal (evexRefusals mode64 P p0 p1 0x08 false) = none := by
  rw [evexRefusals_eq_none] at h ⊢
  obtain ⟨hprefixes, hres, hrow, -, -, -, hr, hext⟩ := h
  refine ⟨hprefixes, hres, hrow, by decide, by decide, rfl, hr, fun hm => ⟨(hext hm).1, ?_⟩⟩
  have hlow := (hext hm).2
  have h8 : barred 0x08 3 1 = 0 := by decide
  omega

theorem evexRefusals_p1 {p0 p1 p2 : Byte} {round : Bool} (h : firstRefusal (evexRefusals mode64 P p0 p1 p2 round) = none) :
    firstRefusal (evexRefusals mode64 P p0 0x7D 0x08 false) = none := by
  rw [evexRefusals_eq_none] at h ⊢
  obtain ⟨hprefixes, ⟨hres, -⟩, ⟨hrow, -⟩, -, -, -, hr, hext⟩ := h
  exact ⟨hprefixes, ⟨hres, by decide⟩, ⟨hrow, by decide⟩, by decide, by decide, rfl, hr, fun hm => ⟨(hext hm).1, by decide⟩⟩

/-- Prefix bytes that are not refused can stand before `C5 F9`. -/
theorem accepted_vexTwo_F9 (h : firstRefusal (prefixRefusals mode64 P) = none) :
    (decodeShape mode64 P rex [0xC5, 0xF9, Elem.opcode .byte, 0]).accepted = true := by
  rw [decodeShape_vexTwo (opensVex_eq_true.2 fun _ => by decide)]
  exact accepted_decodeVex_zero .byte ((vexRefusals_eq_none mode64 P).2 ⟨h, by decide, by decide, fun _ => by decide⟩)

/-- Prefix bytes that are not refused can stand before `C4 E1 79`. -/
theorem accepted_vexThree_E1 (h : firstRefusal (prefixRefusals mode64 P) = none) :
    (decodeShape mode64 P rex [0xC4, 0xE1, 0x79, Elem.opcode .byte, 0]).accepted = true := by
  rw [decodeShape_vexThree (opensVex_eq_true.2 fun _ => by decide)]
  exact accepted_decodeVex_zero .byte ((vexRefusals_eq_none mode64 P).2 ⟨h, by decide, by decide, fun _ => by decide⟩)

/-- Prefix bytes that are not refused can stand before `62 F1 7D 08`. -/
theorem accepted_evex_F1 (h : firstRefusal (prefixRefusals mode64 P) = none) :
    (decodeShape mode64 P rex [0x62, 0xF1, 0x7D, 0x08, Elem.opcode .byte, 0]).accepted = true := by
  rw [decodeShape_evex (opensVex_eq_true.2 fun _ => by decide)]
  exact accepted_decodeEvex_zero .byte ((evexRefusals_eq_none mode64 P).2
    ⟨h, by decide, by decide, by decide, by decide, rfl, by decide, fun _ => by decide⟩)

/-! ### The shapes together (R81) -/

theorem opens_of_more {b next : Byte} {bs : List Byte} {missing : Missing} (hb : b = 0xC5 ∨ b = 0xC4 ∨ b = 0x62)
    (h : decodeShape mode64 P rex (b :: next :: bs) = .more missing) : opensVex mode64 next = true := by
  by_contra hno
  rw [decodeShape_not_opens hb (by simpa using hno)] at h
  cases h

/-- Bytes that end early go on to accepted ones, which with the prefixes are at most 15. -/
theorem decodeShape_completes (hP : firstRefusal (prefixRefusals mode64 P) = none → P.length ≤ 5) {bs : List Byte}
    {next : Missing} (h : decodeShape mode64 P rex bs = .more next) :
    ∃ u, (decodeShape mode64 P rex (bs ++ u)).accepted = true ∧ P.length + rex.isSome.toNat + (bs ++ u).length ≤ 15 := by
  have hrex := Bool.toNat_le rex.isSome
  match bs with
  | [] =>
    have hnone := moreUnless_eq_more h
    have hfive := hP hnone
    exact ⟨_, accepted_vexTwo_F9 hnone, by simp; omega⟩
  | b :: bs =>
    by_cases h0F : b = 0x0F
    · subst h0F
      obtain ⟨u, hacc, hlen⟩ := decodeLegacy_completes hP h
      exact ⟨u, hacc, by simp only [List.cons_append, List.length_cons]; omega⟩
    by_cases hC5 : b = 0xC5
    · subst hC5
      match bs with
      | [] =>
        have hnone := moreUnless_eq_more h
        have hfive := hP hnone
        exact ⟨_, accepted_vexTwo_F9 hnone, by simp; omega⟩
      | v0 :: bs =>
        have hopens := opens_of_more (.inl rfl) h
        rw [decodeShape_vexTwo hopens] at h
        obtain ⟨u, hacc, hlen⟩ := decodeVex_completes hP h
        refine ⟨u, ?_, ?_⟩
        · rwa [List.cons_append, List.cons_append, decodeShape_vexTwo hopens]
        · have hthree : (vexTwo v0).three.toNat = 0 := rfl
          simp only [List.cons_append, List.length_cons]
          omega
    by_cases hC4 : b = 0xC4
    · subst hC4
      match bs with
      | [] =>
        have hnone := moreUnless_eq_more h
        have hfive := hP hnone
        exact ⟨_, accepted_vexThree_E1 hnone, by simp; omega⟩
      | [v1] =>
        have hopens := opens_of_more (.inr (.inl rfl)) h
        rw [decodeShape_vexThree_missing hopens] at h
        have hnone := moreUnless_eq_more h
        have hfive := hP ((vexRefusals_eq_none mode64 P).1 hnone).1
        refine ⟨[0x79, Elem.opcode .byte, 0], ?_, by simp; omega⟩
        rw [List.cons_append, List.cons_append, List.nil_append, decodeShape_vexThree hopens]
        exact accepted_decodeVex_zero .byte hnone
      | v1 :: v2 :: bs =>
        have hopens := opens_of_more (.inr (.inl rfl)) h
        rw [decodeShape_vexThree hopens] at h
        obtain ⟨u, hacc, hlen⟩ := decodeVex_completes hP h
        refine ⟨u, ?_, ?_⟩
        · rwa [List.cons_append, List.cons_append, List.cons_append, decodeShape_vexThree hopens]
        · have hthree : (vexThree v1 v2).three.toNat = 1 := rfl
          simp only [List.cons_append, List.length_cons]
          omega
    by_cases h62 : b = 0x62
    · subst h62
      match bs with
      | [] =>
        have hnone := moreUnless_eq_more h
        have hfive := hP hnone
        exact ⟨_, accepted_evex_F1 hnone, by simp; omega⟩
      | [p0] =>
        have hopens := opens_of_more (.inr (.inr rfl)) h
        rw [decodeShape_evex_missing_p1 hopens] at h
        have hnone := moreUnless_eq_more h
        have hfive := hP ((evexRefusals_eq_none mode64 P).1 hnone).1
        refine ⟨[0x7D, 0x08, Elem.opcode .byte, 0], ?_, by simp; omega⟩
        rw [List.cons_append, List.cons_append, List.nil_append, decodeShape_evex hopens]
        exact accepted_decodeEvex_zero .byte hnone
      | [p0, p1] =>
        have hopens := opens_of_more (.inr (.inr rfl)) h
        rw [decodeShape_evex_missing_p2 hopens] at h
        have hnone := moreUnless_eq_more h
        have hfive := hP ((evexRefusals_eq_none mode64 P).1 hnone).1
        refine ⟨[0x08, Elem.opcode .byte, 0], ?_, by simp; omega⟩
        rw [List.cons_append, List.cons_append, List.cons_append, List.nil_append, decodeShape_evex hopens]
        exact accepted_decodeEvex_zero .byte hnone
      | p0 :: p1 :: p2 :: bs =>
        have hopens := opens_of_more (.inr (.inr rfl)) h
        rw [decodeShape_evex hopens] at h
        obtain ⟨u, hacc, hlen⟩ := decodeEvex_completes hP h
        refine ⟨u, ?_, ?_⟩
        · rwa [List.cons_append, List.cons_append, List.cons_append, List.cons_append, decodeShape_evex hopens]
        · simp only [List.cons_append, List.length_cons]
          omega
    · rw [decodeShape_other h0F hC5 hC4 h62] at h
      cases h

theorem prefixRefusals_of_accepted {bs : List Byte} (hrex : ∀ b ∈ rex, mode64 = true ∧ bits b 4 4 = 4)
    (h : (decodeShape mode64 P rex bs).accepted = true) : firstRefusal (prefixRefusals mode64 P) = none := by
  obtain ⟨code, rest, i, ud, -, -, hadmits⟩ := shape_of_accepted hrex h
  have hnone := hadmits.unrefused
  cases hi : i.isLegacy with
  | true =>
    rw [refusals_of_legacy hi] at hnone
    exact prefixRefusals_of_legacy hnone
  | false => rwa [refusals_of_not_legacy hi] at hnone

/-- Bytes that go on to accepted ones, at most 15 with the prefixes, are not refused. -/
theorem decodeShape_not_refused {bs u : List Byte} (hrex : ∀ b ∈ rex, mode64 = true ∧ bits b 4 4 = 4)
    (h : (decodeShape mode64 P rex (bs ++ u)).accepted = true)
    (hlen : P.length + rex.isSome.toNat + (bs ++ u).length ≤ 15) (r : DecodeRefusal) :
    decodeShape mode64 P rex bs ≠ .refuse r := by
  have hprefixes := moreUnless_not_refuse (prefixRefusals_of_accepted hrex h) .opcode r
  match bs with
  | [] => exact hprefixes
  | b :: bs =>
    by_cases h0F : b = 0x0F
    · subst h0F
      exact decodeLegacy_not_refused h r
    by_cases hC5 : b = 0xC5
    · subst hC5
      match bs with
      | [] => exact hprefixes
      | v0 :: bs =>
        have hopens := opens_of_accepted (.inl rfl) h
        rw [List.cons_append, List.cons_append, decodeShape_vexTwo hopens] at h
        rw [decodeShape_vexTwo hopens]
        have hthree : (vexTwo v0).three.toNat = 0 := rfl
        simp only [List.cons_append, List.length_cons] at hlen
        exact decodeVex_not_refused h (by omega) r
    by_cases hC4 : b = 0xC4
    · subst hC4
      match bs with
      | [] => exact hprefixes
      | [v1] =>
        match u with
        | [] => exact not_refuse_of_accepted h r
        | v2 :: u =>
          have hopens := opens_of_accepted (.inr (.inl rfl)) h
          rw [List.cons_append, List.cons_append, List.nil_append, decodeShape_vexThree hopens] at h
          rw [decodeShape_vexThree_missing hopens]
          exact moreUnless_not_refuse (vexRefusals_v2 (decodeVex_accepted h).1) _ r
      | v1 :: v2 :: bs =>
        have hopens := opens_of_accepted (.inr (.inl rfl)) h
        rw [List.cons_append, List.cons_append, List.cons_append, decodeShape_vexThree hopens] at h
        rw [decodeShape_vexThree hopens]
        have hthree : (vexThree v1 v2).three.toNat = 1 := rfl
        simp only [List.cons_append, List.length_cons] at hlen
        exact decodeVex_not_refused h (by omega) r
    by_cases h62 : b = 0x62
    · subst h62
      match bs with
      | [] => exact hprefixes
      | [p0] =>
        match u with
        | [] => exact not_refuse_of_accepted h r
        | [p1] =>
          have hopens := opens_of_accepted (.inr (.inr rfl)) h
          rw [List.cons_append, List.cons_append, List.nil_append, decodeShape_evex_missing_p2 hopens,
            not_accepted_moreUnless] at h
          cases h
        | p1 :: p2 :: u =>
          have hopens := opens_of_accepted (.inr (.inr rfl)) h
          rw [List.cons_append, List.cons_append, List.nil_append, decodeShape_evex hopens] at h
          rw [decodeShape_evex_missing_p1 hopens]
          obtain ⟨e, modrm, code, src2, rest, -, hnone, -⟩ := decodeEvex_accepted h
          exact moreUnless_not_refuse (evexRefusals_p1 hnone) _ r
      | [p0, p1] =>
        match u with
        | [] => exact not_refuse_of_accepted h r
        | p2 :: u =>
          have hopens := opens_of_accepted (.inr (.inr rfl)) h
          rw [List.cons_append, List.cons_append, List.cons_append, List.nil_append, decodeShape_evex hopens] at h
          rw [decodeShape_evex_missing_p2 hopens]
          obtain ⟨e, modrm, code, src2, rest, -, hnone, -⟩ := decodeEvex_accepted h
          exact moreUnless_not_refuse (evexRefusals_p2 hnone) _ r
      | p0 :: p1 :: p2 :: bs =>
        have hopens := opens_of_accepted (.inr (.inr rfl)) h
        rw [List.cons_append, List.cons_append, List.cons_append, List.cons_append, decodeShape_evex hopens] at h
        rw [decodeShape_evex hopens]
        simp only [List.cons_append, List.length_cons] at hlen
        exact decodeEvex_not_refused h (by omega) r
    · rw [List.cons_append, decodeShape_other h0F hC5 hC4 h62] at h
      cases h

end Sys2Proof.Laws
end

section
/-! O14, O15, from the shapes to the decoder. -/

namespace Sys2Proof.Laws

variable {mode64 : Bool} {P : List Byte} {rex : Option Byte}

/-- Where the shape accepts bytes, no more than 15 with the prefixes, so does decoding. -/
theorem accepted_decode {bs : List Byte} (hP : ∀ b ∈ P, isPrefix b = true)
    (hrex : ∀ b ∈ rex, mode64 = true ∧ bits b 4 4 = 4) (h : (decodeShape mode64 P rex bs).accepted = true)
    (hlen : (P ++ rex.toList ++ bs).length ≤ 15) : (decode mode64 (P ++ rex.toList ++ bs)).accepted = true := by
  obtain ⟨code, tail, i, ud, rfl, hshape, hadmits⟩ := shape_of_accepted hrex h
  have hreads : Reads mode64 P rex code i ud := ⟨hP, hrex, hshape, hadmits⟩
  have hcode := length_of_reads hreads
  rw [← List.append_assoc] at hlen ⊢
  rw [List.length_append] at hlen
  rw [decode_of_reads hreads, if_neg fun hlong => by omega, accepted_answer]

/-- Bytes that end early go on to accepted ones. -/
theorem exists_accepted_of_more {bs : List Byte} {next : Missing} (h : decode mode64 bs = .more next) :
    ∃ u, (decode mode64 (bs ++ u)).accepted = true := by
  obtain ⟨P, rex, rest, rfl, hsplits⟩ := exists_splits mode64 bs
  rw [decode_of_splits hsplits, limited_eq_more] at h
  obtain ⟨u, hacc, hlen⟩ := decodeShape_completes (length_le_five hsplits.prefixes) h.1
  refine ⟨u, ?_⟩
  rw [List.append_assoc]
  refine accepted_decode hsplits.prefixes hsplits.rexByte hacc ?_
  rw [List.length_append, List.length_append, length_toList]
  exact hlen

/-! ### Bytes that go on to accepted ones are not refused -/

/-- What prefixes do not decide, the first ones of them do not. -/
theorem prefixRefusals_left {Q : List Byte} (h : firstRefusal (prefixRefusals mode64 (P ++ Q)) = none) :
    firstRefusal (prefixRefusals mode64 P) = none := by
  have hrepeat : hasRepeat (P ++ Q) = false → hasRepeat P = false := by
    rw [hasRepeat_eq_false, hasRepeat_eq_false]
    exact List.Nodup.of_append_left
  simp only [firstRefusal_eq_none, prefixRefusals, List.forall_mem_cons, hasSegment, List.contains_append,
    Bool.or_eq_false_iff, Bool.and_eq_false_imp, Bool.or_eq_true] at h ⊢
  tauto

/-- Prefix bytes that go on to accepted bytes are not refused. -/
theorem prefixRefusals_of_append {v : List Byte} (hP : ∀ b ∈ P, isPrefix b = true)
    (h : (decode mode64 (P ++ v)).accepted = true) : firstRefusal (prefixRefusals mode64 P) = none := by
  obtain ⟨Q, rex, rest, rfl, hsplits⟩ := exists_splits mode64 v
  have hall : Splits mode64 (P ++ Q) rex rest :=
    ⟨List.forall_mem_append.2 ⟨hP, hsplits.prefixes⟩, hsplits.rexByte, hsplits.head⟩
  rw [← List.append_assoc, ← List.append_assoc, decode_of_splits hall] at h
  exact prefixRefusals_left (prefixRefusals_of_accepted hsplits.rexByte (accepted_of_accepted_limited h))

/-- The split of bytes that have one after the prefixes is the split of what they go on to. -/
theorem splits_append {rest v : List Byte} (h : Splits mode64 P rex rest) (hrest : rex = none → rest ≠ []) :
    Splits mode64 P rex (rest ++ v) where
  prefixes := h.prefixes
  rexByte := h.rexByte
  head hnone := by
    cases rest with
    | nil => exact absurd rfl (hrest hnone)
    | cons b rest => exact h.head hnone

/-- What the shape answers on bytes that go on to accepted ones of at most 15 bytes. -/
theorem decodeShape_not_refused_of_append {rest v : List Byte} (hsplits : Splits mode64 P rex rest)
    (h : (decode mode64 (P ++ rex.toList ++ rest ++ v)).accepted = true)
    (hlen : (P ++ rex.toList ++ rest ++ v).length ≤ 15) (r : DecodeRefusal) :
    decodeShape mode64 P rex rest ≠ .refuse r := by
  by_cases hrest : rex = none → rest ≠ []
  · rw [List.append_assoc, decode_of_splits (splits_append hsplits hrest)] at h
    rw [List.append_assoc, List.length_append, List.length_append, length_toList] at hlen
    exact decodeShape_not_refused hsplits.rexByte (accepted_of_accepted_limited h) hlen r
  · simp only [Classical.not_imp, Decidable.not_not] at hrest
    obtain ⟨rfl, rfl⟩ := hrest
    rw [Option.toList_none, List.append_nil, List.append_nil] at h
    exact moreUnless_not_refuse (prefixRefusals_of_append hsplits.prefixes h) _ r

theorem not_refuse_of_short_append {bs v : List Byte} (h : (decode mode64 (bs ++ v)).accepted = true)
    (hlen : (bs ++ v).length ≤ 15) (r : DecodeRefusal) : decode mode64 bs ≠ .refuse r := by
  by_cases hv : v = []
  · rw [hv, List.append_nil] at h
    exact not_refuse_of_accepted h r
  have hvlen := List.length_pos_iff.2 hv
  rw [List.length_append] at hlen
  obtain ⟨P, rex, rest, rfl, hsplits⟩ := exists_splits mode64 bs
  by_cases hacc : (decodeShape mode64 P rex rest).accepted = true
  · exact not_refuse_of_accepted (accepted_decode hsplits.prefixes hsplits.rexByte hacc (by omega)) r
  rw [decode_of_splits hsplits]
  cases hd : decodeShape mode64 P rex rest with
  | instr i tail => exact absurd rfl (hd ▸ hacc)
  | ud i extra => exact absurd rfl (hd ▸ hacc)
  | refuse r' => exact absurd hd (decodeShape_not_refused_of_append hsplits h (by rw [List.length_append]; exact hlen) r')
  | more next =>
    rw [limited_eq_more.2 ⟨rfl, by omega⟩]
    nofun

/-- Bytes that go on to accepted ones are not refused: either they hold the accepted form, or they are the first bytes of
it, and it has no more than 15. -/
theorem not_refuse_of_append_accepted {bs u : List Byte} (h : (decode mode64 (bs ++ u)).accepted = true) (r : DecodeRefusal) :
    decode mode64 bs ≠ .refuse r := by
  obtain ⟨P, rex, code, tail, i, ud, hbytes, hreads⟩ := exists_reads h
  have hshort : ¬ ((i.extraBytes P rex != 0 || ud) = true ∧ 15 < i.len + i.extraBytes P rex) := fun hlong => by
    rw [hbytes, decode_of_reads hreads, if_pos hlong] at h
    cases h
  have hall : ∀ tail, (decode mode64 (P ++ rex.toList ++ code ++ tail)).accepted = true := fun tail => by
    rw [decode_of_reads hreads, if_neg hshort, accepted_answer]
  rcases List.append_eq_append_iff.1 hbytes with ⟨v, hcode, -⟩ | ⟨v, rfl, -⟩
  · refine not_refuse_of_short_append (v := v) ?_ ?_ r
    · rw [← hcode, ← List.append_nil (P ++ rex.toList ++ code)]
      exact hall []
    · rw [← hcode, length_of_reads hreads]
      by_contra hlong
      have hbounds := instr_len_bounds i
      exact hshort ⟨by simp; omega, by omega⟩
  · exact not_refuse_of_accepted (hall v) r

end Sys2Proof.Laws

namespace Sys2Proof.Proofs

open Laws

/-- Settles O15: by what completes each shape. -/
theorem missingBytesLeaveTheRefusalOpen : Obligations.MissingBytesLeaveTheRefusalOpen := by
  intro mode64 bs next h
  refine ⟨length_lt_of_decode_more h, ?_⟩
  obtain ⟨u, hacc⟩ := exists_accepted_of_more h
  cases hd : decode mode64 (bs ++ u) with
  | instr i rest => exact ⟨u, i, .inl ⟨rest, hd⟩⟩
  | ud i extra => exact ⟨u, i, .inr ⟨extra, hd⟩⟩
  | refuse r => exact absurd hd (not_refuse_of_accepted hacc r)
  | more m => exact absurd hd (not_more_of_accepted hacc)

/-- Settles O14: the bytes of a form are it whatever follows them; bytes that are not refused, with more after them, are or go
on to accepted ones, and so the first of them are not refused. -/
theorem decodingVerdictsAreFinal : Obligations.DecodingVerdictsAreFinal := by
  intro mode64 bs tail
  refine ⟨fun i rest h => ?_, fun i extra h => ?_, fun r h => ?_⟩
  · obtain ⟨P, rex, code, rfl, hreads, hextra⟩ := reads_of_decode_instr h
    rw [List.append_assoc _ rest, decode_of_reads hreads, hextra]
    rfl
  · obtain ⟨P, rex, code, rest, ud, rfl, hreads, rfl, hud, hlen⟩ := reads_of_decode_ud h
    rw [List.append_assoc _ rest, decode_of_reads hreads, if_neg fun hlong => Nat.not_lt.2 hlen hlong.2]
    exact answer_eq_ud.2 ⟨by simpa using hud, rfl, rfl⟩
  · have hnot : ∀ u, (decode mode64 (bs ++ u)).accepted ≠ true := fun u hacc => not_refuse_of_append_accepted hacc r h
    cases hd : decode mode64 (bs ++ tail) with
    | refuse r' => exact ⟨r', rfl⟩
    | instr i rest => exact absurd (by rw [hd]; rfl) (hnot tail)
    | ud i extra => exact absurd (by rw [hd]; rfl) (hnot tail)
    | more next =>
      obtain ⟨u, hacc⟩ := exists_accepted_of_more hd
      rw [List.append_assoc] at hacc
      exact absurd hacc (hnot (tail ++ u))

end Sys2Proof.Proofs
end

section
/-! O22, O23, O24. What the compare functions answer, bit by bit: EqLanes and EqMask each get one equivalence for their bits,
and the lanes, the symmetry, the halves and the writemask are read off it. -/

namespace Sys2Proof.Machine

/-! ### Lanes (R11) -/

theorem getLsbD_lane {n : Nat} (w j : Nat) (a : BitVec n) (k : Nat) :
    (lane w j a).getLsbD k = (decide (k < w) && a.getLsbD (w * j + k)) :=
  BitVec.getLsbD_extractLsb' (w * j) w a k

/-- The lane that holds bit `i`. -/
theorem div_eq_lane {w j i : Nat} (hlow : w * j ≤ i) (hhigh : i < w * (j + 1)) : i / w = j :=
  Nat.div_eq_of_lt_le (by rwa [Nat.mul_comm]) (by rwa [Nat.mul_comm])

/-- Lane `j` of the field of a value that starts with lane `d`. -/
theorem lane_extractLsb' {n w j len : Nat} (d : Nat) (h : w * (j + 1) ≤ len) (a : BitVec n) :
    lane w j (a.extractLsb' (w * d) len) = lane w (d + j) a := by
  apply BitVec.eq_of_getLsbD_eq
  intro k hk
  have hin : w * j + k < len := by rw [Nat.mul_succ] at h; omega
  rw [getLsbD_lane, getLsbD_lane, BitVec.getLsbD_extractLsb', decide_eq_true hin, Bool.true_and, ← Nat.add_assoc,
    ← Nat.mul_add]

/-! ### EqLanes (R103) -/

/-- The bits that lane `j` alone adds to EqLanes. -/
theorem getLsbD_eqLane {n : Nat} (w j : Nat) (a b : BitVec n) (i : Nat) :
    (if lane w j a = lane w j b then (BitVec.allOnes w).setWidth n <<< (w * j) else 0).getLsbD i = true ↔
      i < n ∧ (w * j ≤ i ∧ i < w * (j + 1)) ∧ lane w (i / w) a = lane w (i / w) b := by
  have hones : ((BitVec.allOnes w).setWidth n <<< (w * j)).getLsbD i = true ↔
      i < n ∧ w * j ≤ i ∧ i < w * (j + 1) := by
    simp only [BitVec.getLsbD_shiftLeft, BitVec.getLsbD_setWidth, BitVec.getLsbD_allOnes, Bool.and_eq_true,
      decide_eq_true_eq, Bool.not_eq_true', decide_eq_false_iff_not, Nat.mul_succ]
    omega
  have hlane : w * j ≤ i ∧ i < w * (j + 1) → i / w = j := fun ⟨hlow, hhigh⟩ => div_eq_lane hlow hhigh
  split
  next heq =>
    rw [hones]
    exact and_congr_right fun _ => ⟨fun hin => ⟨hin, by rwa [hlane hin]⟩, And.left⟩
  next hne =>
    refine ⟨fun h => by simp at h, fun ⟨_, hin, heq⟩ => absurd ?_ hne⟩
    rwa [hlane hin] at heq

/-- A bit of EqLanes is 1 exactly when it is in one of the lanes and the operands' lanes there are equal. -/
theorem getLsbD_eqLanes {n : Nat} (w count : Nat) (a b : BitVec n) (i : Nat) :
    (eqLanes w count a b).getLsbD i = true ↔
      i < n ∧ i < w * count ∧ lane w (i / w) a = lane w (i / w) b := by
  induction count with
  | zero => simp [eqLanes]
  | succ j ih =>
    rw [eqLanes, BitVec.getLsbD_or, Bool.or_eq_true, ih, getLsbD_eqLane, ← and_or_left, ← or_and_right]
    have hbelow : i < w * j ∨ w * j ≤ i ∧ i < w * (j + 1) ↔ i < w * (j + 1) := by
      rw [Nat.mul_succ]
      omega
    rw [hbelow]

/-- Two compares of the same shape are equal when they find the same lanes equal. -/
theorem eqLanes_congr {n w count : Nat} {a b a' b' : BitVec n}
    (h : ∀ j, j < count → (lane w j a = lane w j b ↔ lane w j a' = lane w j b')) :
    eqLanes w count a b = eqLanes w count a' b' := by
  apply BitVec.eq_of_getLsbD_eq
  intro i _
  rw [Bool.eq_iff_iff, getLsbD_eqLanes, getLsbD_eqLanes]
  exact and_congr_right fun _ => and_congr_right fun hi => h (i / w) (Nat.div_lt_of_lt_mul hi)

theorem lane_eqLanes {n w count j : Nat} (hn : w * count ≤ n) (hj : j < count) (a b : BitVec n) :
    lane w j (eqLanes w count a b) = if lane w j a = lane w j b then BitVec.allOnes w else 0 := by
  apply BitVec.eq_of_getLsbD_eq
  intro k hk
  have hlast : w * (j + 1) ≤ w * count := Nat.mul_le_mul_left w hj
  have hhigh : w * j + k < w * (j + 1) := by rw [Nat.mul_succ]; omega
  have hbit : (eqLanes w count a b).getLsbD (w * j + k) = true ↔ lane w j a = lane w j b := by
    rw [getLsbD_eqLanes, div_eq_lane (Nat.le_add_right _ _) hhigh]
    exact ⟨fun ⟨_, _, heq⟩ => heq, fun heq => ⟨by omega, by omega, heq⟩⟩
  rw [getLsbD_lane, decide_eq_true hk, Bool.true_and]
  split
  next heq => rw [hbit.2 heq, BitVec.getLsbD_allOnes, decide_eq_true hk]
  next hne => rw [Bool.eq_false_iff.2 fun h => hne (hbit.1 h), BitVec.ofNat_eq_ofNat, BitVec.getLsbD_zero]

theorem eqLanes_comm {n : Nat} (w count : Nat) (a b : BitVec n) : eqLanes w count a b = eqLanes w count b a :=
  eqLanes_congr fun _ _ => eq_comm

theorem eqLanes_self (w count : Nat) (a : BitVec (w * count)) : eqLanes w count a a = BitVec.allOnes (w * count) := by
  apply BitVec.eq_of_getLsbD_eq
  intro i hi
  rw [(getLsbD_eqLanes w count a a i).2 ⟨hi, hi, rfl⟩, BitVec.getLsbD_allOnes, decide_eq_true hi]

/-- A compare of twice as many lanes is the compare of the high halves above that of the low halves. -/
theorem eqLanes_halves (w c : Nat) (a b : BitVec (w * c + w * c)) :
    eqLanes w (c + c) a b
      = eqLanes w c (a.extractLsb' (w * c) (w * c)) (b.extractLsb' (w * c) (w * c))
        ++ eqLanes w c (a.extractLsb' 0 (w * c)) (b.extractLsb' 0 (w * c)) := by
  have hfield : ∀ d j (x : BitVec (w * c + w * c)), j < c →
      lane w j (x.extractLsb' (w * d) (w * c)) = lane w (d + j) x :=
    fun d j x hj => lane_extractLsb' d (Nat.mul_le_mul_left w hj) x
  apply BitVec.eq_of_getLsbD_eq
  intro i hi
  rw [BitVec.getLsbD_append, Bool.eq_iff_iff, getLsbD_eqLanes, Nat.mul_add]
  split
  next hlow =>
    have hlane : i / w < c := Nat.div_lt_of_lt_mul hlow
    have hzero : ∀ x, lane w (i / w) (x.extractLsb' 0 (w * c)) = lane w (i / w) x := fun x => by
      simpa using hfield 0 (i / w) x hlane
    rw [getLsbD_eqLanes, hzero, hzero]
    simp [hlow, hi]
  next hhigh =>
    have hrest : i - w * c < w * c := by omega
    have hlane : (i - w * c) / w < c := Nat.div_lt_of_lt_mul hrest
    have hsum : c + (i - w * c) / w = i / w := by
      have hw : 0 < w := Nat.pos_of_ne_zero (by rintro rfl; simp at hi)
      calc c + (i - w * c) / w = (w * c + (i - w * c)) / w := (Nat.mul_add_div hw _ _).symm
        _ = i / w := by rw [Nat.add_sub_cancel' (Nat.le_of_not_lt hhigh)]
    rw [getLsbD_eqLanes, hfield c _ a hlane, hfield c _ b hlane, hsum]
    simp [hrest, hi]

/-! ### EqMask (R104) -/

theorem maskEnables_iff (km : Option Opmask) (j : Nat) :
    maskEnables km j = true ↔ ∀ m, km = some m → m.testBit j = true := by
  cases km <;> simp [maskEnables]

/-- The bit that lane `j` alone adds to EqMask. -/
theorem testBit_eqMaskBit {n : Nat} (w j : Nat) (a b : BitVec n) (km : Option Opmask) (i : Nat) :
    (if maskEnables km j && lane w j a == lane w j b then 1 <<< j else 0 : Opmask).testBit i = true ↔
      i = j ∧ (∀ m, km = some m → m.testBit i = true) ∧ lane w i a = lane w i b := by
  rw [← maskEnables_iff, Nat.one_shiftLeft]
  split
  next h =>
    rw [Nat.testBit_two_pow, decide_eq_true_eq, eq_comm]
    exact ⟨by rintro rfl; simpa using h, And.left⟩
  next h =>
    refine ⟨fun hz => by simp at hz, ?_⟩
    rintro ⟨rfl, hon⟩
    exact absurd (by simpa using hon) h

/-- A bit of EqMask is 1 exactly when it is below the number of lanes, enabled, and the lanes there are equal. -/
theorem testBit_eqMask {n : Nat} (w kl : Nat) (a b : BitVec n) (km : Option Opmask) (i : Nat) :
    (eqMask w kl a b km).testBit i = true ↔
      i < kl ∧ (∀ m, km = some m → m.testBit i = true) ∧ lane w i a = lane w i b := by
  induction kl with
  | zero => simp [eqMask]
  | succ j ih =>
    rw [eqMask, Nat.testBit_or, Bool.or_eq_true, ih, testBit_eqMaskBit, ← or_and_right, Nat.lt_succ_iff_lt_or_eq]

end Sys2Proof.Machine

namespace Sys2Proof.Proofs

open Machine

/-- Settles O22: each helper is EqLanes with a word of ones written out. -/
theorem compareHelpersCompareEachElement : Obligations.CompareHelpersCompareEachElement := fun a b =>
  ⟨fun _ hj => lane_eqLanes (w := 8) (count := 16) (by decide) hj a b,
    fun _ hj => lane_eqLanes (w := 16) (count := 8) (by decide) hj a b,
    fun _ hj => lane_eqLanes (w := 32) (count := 4) (by decide) hj a b⟩

/-- Settles O23: what lane j holds gives the rest, the halves by the bits. -/
theorem eqLanesComparesEachLane : Obligations.EqLanesComparesEachLane := by
  refine ⟨fun w count n a b hn j hj => lane_eqLanes hn hj a b, fun w count n a b a' b' hn j hj ha hb => ?independent,
    fun w count n => eqLanes_comm w count, eqLanes_self, fun w a b hw => ?halves⟩
  case independent => rw [lane_eqLanes hn hj, lane_eqLanes hn hj, ha, hb]
  case halves =>
    rcases hw with rfl | rfl | rfl
    · exact eqLanes_halves 8 16 a b
    · exact eqLanes_halves 16 8 a b
    · exact eqLanes_halves 32 4 a b

/-- Settles O24: by the bits of EqMask, and what a writemask enables below KL. -/
theorem eqMaskSetsABitPerEqualLane : Obligations.EqMaskSetsABitPerEqualLane := by
  refine ⟨fun w kl n => testBit_eqMask w kl, fun w kl n a b m m' h => Nat.eq_of_testBit_eq fun j => ?_⟩
  rw [Bool.eq_iff_iff, testBit_eqMask, testBit_eqMask]
  refine and_congr_right fun hj => ?_
  simp [h j hj]

end Sys2Proof.Proofs
end

section
/-! O31 to O37. Completion and result of the forms: one rule per family, which the instructions of the family instantiate. -/

namespace Sys2Proof.Machine

/-! ### Registers after pc has advanced (R21) -/

@[simp] theorem readMm_advance (s : State) (len : Nat) (i : Fin 8) : (s.advance len).readMm i = s.readMm i := rfl

@[simp] theorem readVec_advance (w : Nat) (s : State) (len : Nat) (i : Fin 32) :
    (s.advance len).readVec w i = s.readVec w i := rfl

@[simp] theorem readK_advance (s : State) (len : Nat) (i : Fin 8) : (s.advance len).readK i = s.readK i := rfl

/-! ### The families of forms, when they are ready -/

section Families

variable {s : State}

theorem runMmx_completes (f : Mm → Mm → Mm) {p : LegacyPrefix} (dst : Fin 8) {src : Rm 8}
    (h : formReady .mmx (mmLen p src) (mmAccess p src s) s = true) :
    ∃ t, runMmx f p dst src s = .next t ∧ t.pc = s.pc + BitVec.ofNat 64 (mmLen p src)
      ∧ t.readMm dst = f (s.readMm dst) (mmSource p src s) :=
  ⟨_, (runMmx_eq_next ..).2 ⟨h, rfl⟩, by simp, by rw [readMm_advance, readMm_writeMm_same]⟩

theorem runSse_completes (f : BitVec 128 → BitVec 128 → BitVec 128) {p : LegacyPrefix} (dst : Fin 16) {src : Rm 16}
    (h : formReady .sse2 (xmmLen p src) (xmmAccess p src s) s = true) :
    ∃ t, runSse f p dst src s = .next t ∧ t.pc = s.pc + BitVec.ofNat 64 (xmmLen p src)
      ∧ t.readVec 128 (vreg dst) = f (s.readVec 128 (vreg dst)) (xmmSource p src s) :=
  ⟨_, (runSse_eq_next ..).2 ⟨h, rfl⟩, by simp, by rw [readVec_advance, readVec_writeXmm_low]⟩

theorem runVex_completes (vl : VecLen) (f : BitVec vl.bits → BitVec vl.bits → BitVec vl.bits) {p : VexPrefix}
    (dst src1 : Fin 16) {src2 : Rm 16}
    (h : formReady (vexClass vl) (vexLen p src2) (vexAccess vl p src2 s) s = true) :
    ∃ t, runVex vl f p dst src1 src2 s = .next t ∧ t.pc = s.pc + BitVec.ofNat 64 (vexLen p src2)
      ∧ t.readVec 512 (vreg dst) = (f (s.readVec vl.bits (vreg src1)) (vexSource vl p src2 s)).setWidth 512 :=
  ⟨_, (runVex_eq_next ..).2 ⟨h, rfl⟩, by simp, by rw [readVec_advance, readVec_writeVec_whole]⟩

theorem runEvexD_completes (vl : VecLen) {a32 : Bool} (dst : Fin 8) (mask : Option (Fin 8)) (src1 : Fin 32)
    {src2 : RmBcst} (h : formReady (.evexD vl) (evexLen a32 src2.len) (evexDAccess vl a32 src2 s) s = true) :
    ∃ t, runEvexD vl a32 dst mask src1 src2 s = .next t ∧ t.pc = s.pc + BitVec.ofNat 64 (evexLen a32 src2.len)
      ∧ t.readK dst
        = eqMask 32 (vl.bits / 32) (s.readVec vl.bits src1) (evexDSource vl a32 src2 s) (s.writemask mask) :=
  ⟨_, (runEvexD_eq_next ..).2 ⟨h, rfl⟩, by simp, by rw [readK_advance, readK_writeK_same]⟩

theorem runEvexBW_completes (w : Nat) (vl : VecLen) {a32 : Bool} (dst : Fin 8) (mask : Option (Fin 8)) (src1 : Fin 32)
    {src2 : Rm 32} (h : formReady (.evexBW vl) (evexLen a32 src2.len) (evexAccess vl a32 src2 s) s = true) :
    ∃ t, runEvexBW w vl a32 dst mask src1 src2 s = .next t ∧ t.pc = s.pc + BitVec.ofNat 64 (evexLen a32 src2.len)
      ∧ t.readK dst
        = eqMask w (vl.bits / w) (s.readVec vl.bits src1) (evexSource vl a32 src2 s) (s.writemask mask) :=
  ⟨_, (runEvexBW_eq_next ..).2 ⟨h, rfl⟩, by simp, by rw [readK_advance, readK_writeK_same]⟩

end Families

end Sys2Proof.Machine

namespace Sys2Proof.Proofs

open Machine

/-- Settles O31: the three compares of the MMX family. -/
theorem pcmpeqMmCompletes : Obligations.PcmpeqMmCompletes := fun _ dst _ _ h =>
  ⟨runMmx_completes (eqLanes 8 8) dst h, runMmx_completes (eqLanes 16 4) dst h, runMmx_completes (eqLanes 32 2) dst h⟩

/-- Settles O32: the three compares of the legacy SSE2 family. -/
theorem pcmpeqXmmCompletes : Obligations.PcmpeqXmmCompletes := fun _ dst _ _ h =>
  ⟨runSse_completes compareBytesEqual dst h, runSse_completes compareWordsEqual dst h,
    runSse_completes compareDwordsEqual dst h⟩

/-- Settles O33: the three compares of the VEX family at 128 bits. -/
theorem vpcmpeqXmmCompletes : Obligations.VpcmpeqXmmCompletes := fun _ dst src1 _ _ h =>
  ⟨runVex_completes .v128 compareBytesEqual dst src1 h, runVex_completes .v128 compareWordsEqual dst src1 h,
    runVex_completes .v128 compareDwordsEqual dst src1 h⟩

/-- Settles O34: the three compares of the VEX family at 256 bits. -/
theorem vpcmpeqYmmCompletes : Obligations.VpcmpeqYmmCompletes := fun _ dst src1 _ _ h =>
  ⟨runVex_completes .v256 (eqLanes 8 32) dst src1 h, runVex_completes .v256 (eqLanes 16 16) dst src1 h,
    runVex_completes .v256 (eqLanes 32 8) dst src1 h⟩

/-- Settles O35: the EVEX family of doublewords at its three lengths. -/
theorem vpcmpeqdMaskCompletes : Obligations.VpcmpeqdMaskCompletes := fun _ dst mask src1 _ _ =>
  ⟨runEvexD_completes .v128 dst mask src1, runEvexD_completes .v256 dst mask src1,
    runEvexD_completes .v512 dst mask src1⟩

/-- Settles O36: the EVEX family of bytes and words, elements of 8 bits, at its three lengths. -/
theorem vpcmpeqbMaskCompletes : Obligations.VpcmpeqbMaskCompletes := fun _ dst mask src1 _ _ =>
  ⟨runEvexBW_completes 8 .v128 dst mask src1, runEvexBW_completes 8 .v256 dst mask src1,
    runEvexBW_completes 8 .v512 dst mask src1⟩

/-- Settles O37: the same family with elements of 16 bits. -/
theorem vpcmpeqwMaskCompletes : Obligations.VpcmpeqwMaskCompletes := fun _ dst mask src1 _ _ =>
  ⟨runEvexBW_completes 16 .v128 dst mask src1, runEvexBW_completes 16 .v256 dst mask src1,
    runEvexBW_completes 16 .v512 dst mask src1⟩

end Sys2Proof.Proofs
end

section
/-! O45. An EVEX form overwrites its old destination without having looked at it: no check, no operand and no other register
than the writemask reads an opmask register. -/

namespace Sys2Proof.Machine

/-! ### What a write of an opmask register leaves as it was -/

section OpmaskWrite

variable (s : State) (i : Fin 8) (v : Opmask)

/-- A write overwrites an earlier one to the same register, with the count of an operand read between them. -/
theorem countRead_writeK_overwrite (acc : Option Access) (u : Opmask) :
    ((s.writeK i v).countRead acc).writeK i u = (s.countRead acc).writeK i u := by
  cases acc <;> simp [State.countRead, State.writeK]

theorem checkForm_writeK (c : FormClass) (len : Nat) (acc : Option Access) :
    checkForm c len acc (s.writeK i v) = checkForm c len acc s :=
  checkForm_with_k c len acc s (s.k.set i v)

theorem readVec_writeK (w : Nat) (r : Fin 32) : (s.writeK i v).readVec w r = s.readVec w r := rfl

theorem readBytes_writeK (a n : Nat) : (s.writeK i v).readBytes a n = s.readBytes a n := by
  induction n generalizing a with
  | zero => rfl
  | succ n ih => exact congrArg (s.readByte a :: ·) (ih (a + 1))

theorem memRead_writeK (w : Nat) (a : Addr) : (s.writeK i v).memRead w a = s.memRead w a := by
  rw [State.memRead, readBytes_writeK, State.memRead]

theorem evexDAccess_writeK (vl : VecLen) (a32 : Bool) (src2 : RmBcst) :
    evexDAccess vl a32 src2 (s.writeK i v) = evexDAccess vl a32 src2 s := by
  cases src2 <;> rfl

theorem evexAccess_writeK (vl : VecLen) (a32 : Bool) (src2 : Rm 32) :
    evexAccess vl a32 src2 (s.writeK i v) = evexAccess vl a32 src2 s := by
  cases src2 <;> rfl

theorem evexDSource_writeK (vl : VecLen) (a32 : Bool) (src2 : RmBcst) :
    evexDSource vl a32 src2 (s.writeK i v) = evexDSource vl a32 src2 s := by
  cases src2 with
  | reg r => rfl
  | mem m => exact memRead_writeK s i v _ _
  | bcst m => exact congrArg (broadcast vl.bits) (memRead_writeK s i v _ _)

theorem evexSource_writeK (vl : VecLen) (a32 : Bool) (src2 : Rm 32) :
    evexSource vl a32 src2 (s.writeK i v) = evexSource vl a32 src2 s := by
  cases src2 with
  | reg r => rfl
  | mem m => exact memRead_writeK s i v _ _

/-- The writemask is another register's old value, or there is none (R130). -/
theorem writemask_writeK {mask : Option (Fin 8)} (h : mask ≠ some i) :
    (s.writeK i v).writemask mask = s.writemask mask := by
  cases mask with
  | none => rfl
  | some m => exact congrArg some (readK_writeK_other s i m v fun hm => h (congrArg some hm))

end OpmaskWrite

/-! ### The two families of EVEX forms -/

section Families

variable {dst : Fin 8} {mask : Option (Fin 8)} (h : mask ≠ some dst) (s : State) (v : Opmask)

include h

theorem runEvexD_writeK (vl : VecLen) (a32 : Bool) (src1 : Fin 32) (src2 : RmBcst) :
    runEvexD vl a32 dst mask src1 src2 (s.writeK dst v) = runEvexD vl a32 dst mask src1 src2 s := by
  rw [runEvexD, evexDAccess_writeK, checkForm_writeK, countRead_writeK_overwrite, readVec_writeK, evexDSource_writeK,
    writemask_writeK s dst v h, runEvexD]

theorem runEvexBW_writeK (w : Nat) (vl : VecLen) (a32 : Bool) (src1 : Fin 32) (src2 : Rm 32) :
    runEvexBW w vl a32 dst mask src1 src2 (s.writeK dst v) = runEvexBW w vl a32 dst mask src1 src2 s := by
  rw [runEvexBW, evexAccess_writeK, checkForm_writeK, countRead_writeK_overwrite, readVec_writeK, evexSource_writeK,
    writemask_writeK s dst v h, runEvexBW]

end Families

end Sys2Proof.Machine

namespace Sys2Proof.Proofs

open Machine

/-- Settles O45: the doubleword forms, then the byte and the word forms, at their three lengths. -/
theorem evexIgnoresOldDestination : Obligations.EvexIgnoresOldDestination := by
  intro a32 dst mask src1 d r s v h i hi
  have hd := fun vl => runEvexD_writeK h s v vl a32 src1 d
  have hb := fun vl => runEvexBW_writeK h s v 8 vl a32 src1 r
  have hw := fun vl => runEvexBW_writeK h s v 16 vl a32 src1 r
  fin_cases hi
  · exact hd .v128
  · exact hd .v256
  · exact hd .v512
  · exact hb .v128
  · exact hb .v256
  · exact hb .v512
  · exact hw .v128
  · exact hw .v256
  · exact hw .v512

end Sys2Proof.Proofs
end

section
/-! O46. A VEX form overwrites its old destination without having looked at it: the checks and the memory operand read no
vector register, and the register operands are others than the destination. -/

namespace Sys2Proof.Machine

/-! ### What looks at only one part of the state, whatever the rest of it is -/

section Parts

variable {s t : State}

theorem touchesDevice_congr (h : ∀ a, t.onDevice a = s.onDevice a) (a n : Nat) :
    t.touchesDevice a n = s.touchesDevice a n := by
  induction n generalizing a with
  | zero => rfl
  | succ n ih => rw [State.touchesDevice, h, ih, State.touchesDevice]

theorem firstInaccessible_congr (h : ∀ a, t.byteAccessible a = s.byteAccessible a) (a n : Nat) :
    t.firstInaccessible a n = s.firstInaccessible a n := by
  induction n generalizing a with
  | zero => rfl
  | succ n ih => rw [State.firstInaccessible, h, ih, State.firstInaccessible]

theorem readBytes_congr (h : ∀ a, t.readByte a = s.readByte a) (a n : Nat) : t.readBytes a n = s.readBytes a n := by
  induction n generalizing a with
  | zero => rfl
  | succ n ih => rw [State.readBytes, h, ih, State.readBytes]

theorem memRead_congr (h : ∀ a, t.readByte a = s.readByte a) (w : Nat) (a : Addr) : t.memRead w a = s.memRead w a := by
  rw [State.memRead, readBytes_congr h, State.memRead]

end Parts

/-! ### What a write of a vector register leaves as it was -/

section VectorWrite

variable (s : State) (i : Fin 32) (v : Zmm)

/-- A write overwrites an earlier one to the same register, with the count of an operand read between them. -/
theorem countRead_writeVec_overwrite (acc : Option Access) {w : Nat} (u : BitVec w) :
    ((s.writeZmm i v).countRead acc).writeVec i u = (s.countRead acc).writeVec i u := by
  cases acc <;> simp [State.countRead, State.writeVec, State.writeZmm]

theorem admitRead_writeZmm (c : FormClass) (a : Access) : admitRead c a (s.writeZmm i v) = admitRead c a s := by
  have hdevice := touchesDevice_congr (t := s.writeZmm i v) (s := s) fun _ => rfl
  have hfirst := firstInaccessible_congr (t := s.writeZmm i v) (s := s) fun _ => rfl
  unfold admitRead
  rw [hdevice, hfirst]
  rfl

theorem checkForm_writeZmm (c : FormClass) (len : Nat) (acc : Option Access) :
    checkForm c len acc (s.writeZmm i v) = checkForm c len acc s := by
  have hoperand : admitOperand c acc (s.writeZmm i v) = admitOperand c acc s := by
    cases acc with
    | none => rfl
    | some a => exact admitRead_writeZmm s i v c a
  unfold checkForm
  rw [hoperand]
  rfl

theorem memRead_writeZmm (w : Nat) (a : Addr) : (s.writeZmm i v).memRead w a = s.memRead w a :=
  memRead_congr (t := s.writeZmm i v) (s := s) (fun _ => rfl) w a

theorem vexAccess_writeZmm (vl : VecLen) (p : VexPrefix) (src2 : Rm 16) :
    vexAccess vl p src2 (s.writeZmm i v) = vexAccess vl p src2 s := by
  cases src2 <;> rfl

end VectorWrite

/-! ### The VEX forms -/

section Vex

variable (s : State) {dst : Fin 16} (v : Zmm)

/-- The first sixteen vector registers are as many different ones. -/
theorem readVec_writeZmm_vreg_other (w : Nat) {r : Fin 16} (h : r ≠ dst) :
    (s.writeZmm (vreg dst) v).readVec w (vreg r) = s.readVec w (vreg r) :=
  readVec_writeZmm_other w s _ _ v fun heq => h (Fin.castLE_injective _ heq)

theorem vexSource_writeZmm (vl : VecLen) (p : VexPrefix) {src2 : Rm 16} (h : src2 ≠ .reg dst) :
    vexSource vl p src2 (s.writeZmm (vreg dst) v) = vexSource vl p src2 s := by
  cases src2 with
  | reg r => exact readVec_writeZmm_vreg_other s v _ fun hr => h (congrArg Rm.reg hr)
  | mem m => exact memRead_writeZmm s _ v _ _

theorem runVex_writeZmm (vl : VecLen) (f : BitVec vl.bits → BitVec vl.bits → BitVec vl.bits) (p : VexPrefix)
    {src1 : Fin 16} {src2 : Rm 16} (h1 : src1 ≠ dst) (h2 : src2 ≠ .reg dst) :
    runVex vl f p dst src1 src2 (s.writeZmm (vreg dst) v) = runVex vl f p dst src1 src2 s := by
  rw [runVex, vexAccess_writeZmm, checkForm_writeZmm, countRead_writeVec_overwrite, readVec_writeZmm_vreg_other s v _ h1,
    vexSource_writeZmm s v vl p h2, runVex]

end Vex

end Sys2Proof.Machine

namespace Sys2Proof.Proofs

open Machine

/-- Settles O46: the three compares at 128 bits, then at 256. -/
theorem vexIgnoresOldDestination : Obligations.VexIgnoresOldDestination := by
  intro p dst src1 src2 s v h1 h2 i hi
  have hxmm := fun f => runVex_writeZmm s v .v128 f p h1 h2
  have hymm := fun f => runVex_writeZmm s v .v256 f p h1 h2
  fin_cases hi
  · exact hxmm compareBytesEqual
  · exact hxmm compareWordsEqual
  · exact hxmm compareDwordsEqual
  · exact hymm (eqLanes 8 32)
  · exact hymm (eqLanes 16 16)
  · exact hymm (eqLanes 32 8)

end Sys2Proof.Proofs
end

section
/-! O25. The broadcast of R130, at the three vector lengths. -/

namespace Sys2Proof.Proofs

open Machine

/-- Settles O25: a broadcast repeats its value at any width, so at each vector length. -/
theorem broadcastRepeatsTheDoubleword : Obligations.BroadcastRepeatsTheDoubleword := fun vl v _ hj =>
  lane_broadcast vl.bits v hj

end Sys2Proof.Proofs
end

section
/-! Family 60_exceptions.md: the exceptions asked for before a form's memory operand, in the order of R156 (O47 to O49), and
the pc that every exception of a step records (O58). -/

namespace Sys2Proof.Machine

/-! ### The checks of a form that is not refused (R156 items 3 to 5) -/

section Checks

variable {c : FormClass} {len : Nat} {acc : Option Access} {s : State}

/-- What is left of the checks once neither R21 nor R44 refuses: #UD, #NM, #MF, the operand. -/
theorem checkForm_of_not_refused (hfits : pcFits len s = true) (hrefused : alignmentRefused c acc s = false) :
    checkForm c len acc s =
      if (c.supported s.cfg.feat && c.enabled s) = false then raise .ud s
      else if s.ts then raise .nm s
      else if c = .mmx ∧ s.cfg.x87Pending then raise .mf s
      else admitOperand c acc s := by
  have hrefusal : formRefusal c len acc s = none :=
    (formRefusal_eq_none _ _ _ _).2 ⟨by simpa [pcFits] using hfits, hrefused⟩
  rw [checkForm, hrefusal]

variable (hfits : pcFits len s = true) (hrefused : alignmentRefused c acc s = false)

include hfits hrefused

theorem checkForm_of_unsupported (h : (c.supported s.cfg.feat && c.enabled s) = false) :
    checkForm c len acc s = .fault (.ud s.pc) := by
  rw [checkForm_of_not_refused hfits hrefused, if_pos h, raise]

variable (hallowed : (c.supported s.cfg.feat && c.enabled s) = true)

include hallowed

theorem checkForm_of_ts (hts : s.ts = true) : checkForm c len acc s = .fault (.nm s.pc) := by
  rw [checkForm_of_not_refused hfits hrefused, if_neg (by simp [hallowed]), if_pos hts, raise]

theorem checkForm_of_x87Pending (hts : s.ts = false) (hc : c = .mmx) (hpending : s.cfg.x87Pending = true) :
    checkForm c len acc s = .fault (.mf s.pc) := by
  rw [checkForm_of_not_refused hfits hrefused, if_neg (by simp [hallowed]), if_neg (by simp [hts]), if_pos ⟨hc, hpending⟩,
    raise]

end Checks

/-! ### The pc that a fault records (R157) -/

section FaultPc

variable {s : State} {f : Fault}

/-- Every exception is raised with the pc of the state, wherever its constructor keeps it. -/
theorem pc_of_raise {α : Type} {e : Addr → Fault} (he : ∀ pc, (e pc).pc = pc)
    (h : (raise e s : Host.Outcome α Fault Refusal) = .fault f) : f.pc = s.pc := by
  cases h
  exact he s.pc

/-- The exceptions of a memory operand: #GP, #SS, #PF and #AC (R44, R46). -/
theorem pc_of_admitRead_fault {c : FormClass} {a : Access} (h : admitRead c a s = .fault f) : f.pc = s.pc := by
  unfold admitRead at h
  split at h
  · exact pc_of_raise (fun _ => rfl) h
  · split at h
    · split at h
      · exact pc_of_raise (fun _ => rfl) h
      · exact pc_of_raise (fun _ => rfl) h
    · split at h
      · cases h
      · split at h
        · exact pc_of_raise (fun _ => rfl) h
        · split at h
          · exact pc_of_raise (fun _ => rfl) h
          · cases h

theorem pc_of_admitOperand_fault {c : FormClass} {acc : Option Access} (h : admitOperand c acc s = .fault f) :
    f.pc = s.pc := by
  cases acc with
  | none => cases h
  | some a => exact pc_of_admitRead_fault h

/-- The exceptions of a form: #UD, #NM and #MF, and those of its operand (R156 items 3 to 6). -/
theorem pc_of_checkForm_fault {c : FormClass} {len : Nat} {acc : Option Access} (h : checkForm c len acc s = .fault f) :
    f.pc = s.pc := by
  unfold checkForm at h
  split at h
  · cases h
  · split at h
    · exact pc_of_raise (fun _ => rfl) h
    · split at h
      · exact pc_of_raise (fun _ => rfl) h
      · split at h
        · exact pc_of_raise (fun _ => rfl) h
        · exact pc_of_admitOperand_fault h

/-- An instruction faults in its checks only: after them it writes and goes on. -/
theorem checkForm_of_exec_fault {i : Instr} (h : exec i s = .fault f) :
    checkForm i.formClass i.len (i.access s) s = .fault f := by
  rw [← exec_forget_eq_checkForm, h, andThen_fault]

theorem pc_of_udVerdict_fault {α : Type} {i : Instr} {extra : Nat}
    (h : (s.udVerdict i extra : Host.Outcome α Fault Refusal) = .fault f) : f.pc = s.pc := by
  unfold State.udVerdict at h
  split at h
  · cases h
  · exact pc_of_raise (fun _ => rfl) h

/-- The exceptions of a fetch: #UD of the bytes themselves, and #PF of a missing byte, which is at another address than the
pc it records (R81, R156 items 1 and 2). -/
theorem pc_of_fetch_fault (h : s.fetch = .fault f) : f.pc = s.pc := by
  unfold State.fetch at h
  cases hd : decode s.cfg.mode64 s.window with
  | instr i rest => simp [hd] at h
  | ud i extra => exact pc_of_udVerdict_fault (by simpa [hd] using h)
  | refuse r => simp [hd] at h
  | more next =>
    simp only [hd] at h
    split at h
    · cases h
    · exact pc_of_raise (fun _ => rfl) h

/-- When a step faults: the run is not over, and the fetch or the fetched instruction faults (R107, R184). -/
theorem step_eq_fault (s : State) (f : Fault) :
    step s = .fault f ↔ s.ended = false ∧ (s.fetch = .fault f ∨ ∃ i, s.fetch = .next i ∧ exec i s = .fault f) := by
  unfold step
  cases s.ended with
  | true => simp
  | false => simp [andThen_eq_fault]

end FaultPc

end Sys2Proof.Machine

namespace Sys2Proof.Proofs

open Machine

/-- Settles O47: after the refusals, the first question is whether the form is supported and enabled. -/
theorem unsupportedFormRaisesUd : Obligations.UnsupportedFormRaisesUd := fun _ _ hfits hrefused hnot =>
  exec_eq_fault_of_checkForm (checkForm_of_unsupported hfits hrefused hnot)

/-- Settles O48: the second is CR0.TS. -/
theorem taskSwitchedRaisesNm : Obligations.TaskSwitchedRaisesNm := fun _ _ hfits hrefused hallowed hts =>
  exec_eq_fault_of_checkForm (checkForm_of_ts hfits hrefused hallowed hts)

/-- Settles O49: the third is the pending x87 exception, of an MMX form, which R44 never refuses. -/
theorem pendingX87ExceptionRaisesMf : Obligations.PendingX87ExceptionRaisesMf := by
  intro i s hi hfits hfeature henabled hts hpending
  have hrefused : alignmentRefused i.formClass (i.access s) s = false := alignmentRefused_of_legacy (.inl hi) _ _
  have hallowed : (i.formClass.supported s.cfg.feat && i.formClass.enabled s) = true := by
    simp [hi, FormClass.supported, FormClass.enabled, hfeature, henabled]
  exact exec_eq_fault_of_checkForm (checkForm_of_x87Pending hfits hrefused hallowed hts hi hpending)

/-- Settles O58: a step faults in its fetch or in the checks of the instruction, both at the state before it. -/
theorem faultsRecordTheInstructionsPc : Obligations.FaultsRecordTheInstructionsPc := by
  intro s f h
  obtain ⟨-, hfetch | ⟨i, -, hexec⟩⟩ := (step_eq_fault s f).1 h
  · exact pc_of_fetch_fault hfetch
  · exact pc_of_checkForm_fault (checkForm_of_exec_fault hexec)

end Sys2Proof.Proofs
end

section
/-! O21, O53, O60. A step of a run that is over; the memory operand that runs past the top of the address space, which always
begins below it; the launch state. -/

namespace Sys2Proof.Machine

/-! ### The end of a run (R184) -/

theorem ended_iff (s : State) : s.ended = true ↔ s.endAddr = some s.pc := by simp [State.ended]

theorem step_of_ended {s : State} (h : s.ended = true) : step s = .next s := if_pos h

/-! ### The linear address of a memory operand is within the address space (R40, R65, R66) -/

theorem addrSize_le_addrBits (s : State) (addr32 : Bool) : s.addrSize addr32 ≤ s.addrBits := by
  unfold State.addrSize State.addrBits
  cases s.cfg.mode64 with
  | false => exact le_refl 32
  | true => cases addr32 <;> decide

theorem effectiveAddress_lt (s : State) (addr32 : Bool) (n : Nat) (next : Addr) (m : MemOp) :
    (s.effectiveAddress addr32 n next m).toNat < 2 ^ s.addrBits :=
  toNat_setWidth_lt 64 _ (addrSize_le_addrBits s addr32)

/-- The access of an instruction is that of a memory operand (R42). -/
theorem access_eq_memAccess {i : Instr} {s : State} {a : Access} (h : i.access s = some a) :
    ∃ addr32 n len bytes m, a = s.memAccess addr32 n len bytes m := by
  cases i with
  | pcmpeqbMm _ _ src | pcmpeqwMm _ _ src | pcmpeqdMm _ _ src
  | pcmpeqbXmm _ _ src | pcmpeqwXmm _ _ src | pcmpeqdXmm _ _ src
  | vpcmpeqbXmm _ _ _ src | vpcmpeqwXmm _ _ _ src | vpcmpeqdXmm _ _ _ src
  | vpcmpeqbYmm _ _ _ src | vpcmpeqwYmm _ _ _ src | vpcmpeqdYmm _ _ _ src
  | vpcmpeqbK128 _ _ _ _ src | vpcmpeqbK256 _ _ _ _ src | vpcmpeqbK512 _ _ _ _ src
  | vpcmpeqwK128 _ _ _ _ src | vpcmpeqwK256 _ _ _ _ src | vpcmpeqwK512 _ _ _ _ src =>
    cases src with
    | reg r => cases h
    | mem m => exact ⟨_, _, _, _, m, (Option.some.inj h).symm⟩
  | vpcmpeqdK128 _ _ _ _ src | vpcmpeqdK256 _ _ _ _ src | vpcmpeqdK512 _ _ _ _ src =>
    cases src with
    | reg r => cases h
    | mem m | bcst m => exact ⟨_, _, _, _, m, (Option.some.inj h).symm⟩

theorem access_addr_lt {i : Instr} {s : State} {a : Access} (h : i.access s = some a) :
    a.addr.toNat < 2 ^ s.addrBits := by
  obtain ⟨addr32, n, len, bytes, m, rfl⟩ := access_eq_memAccess h
  exact effectiveAddress_lt s addr32 n _ m

theorem byteAccessible_of_past_top {s : State} {a : Nat} (h : 2 ^ s.addrBits ≤ a) : s.byteAccessible a = false := by
  simp [State.byteAccessible, Nat.not_lt.2 h]

/-- An operand that begins below the top of the address space and ends past it, and is accessible up to the top, is stopped
at the top. -/
theorem admitRead_of_across_top {c : FormClass} {a : Access} {s : State}
    (h16 : c = .sse2 → a.addr.toNat % 16 = 0)
    (hcan : s.cfg.mode64 = true → ∀ n, n < a.bytes → canonical s.cfg.laBits (a.addr.toNat + n) = true)
    (hdev : ∀ n, n < a.bytes → s.onDevice (a.addr.toNat + n) = false)
    (hlow : a.addr.toNat < 2 ^ s.addrBits) (hhigh : 2 ^ s.addrBits < a.addr.toNat + a.bytes)
    (hbelow : ∀ n, n < a.bytes → a.addr.toNat + n < 2 ^ s.addrBits → s.byteAccessible (a.addr.toNat + n) = true) :
    admitRead c a s = raise (.pf (BitVec.ofNat 64 (2 ^ s.addrBits))) s := by
  obtain ⟨j, htop⟩ := Nat.exists_eq_add_of_le hlow.le
  have hj : j < a.bytes := by omega
  have hbefore : ∀ n, n < j → s.byteAccessible (a.addr.toNat + n) = true :=
    fun n hn => hbelow n (hn.trans hj) (by omega)
  rw [htop]
  exact admitRead_of_inaccessible h16 hcan hdev hj hbefore (byteAccessible_of_past_top htop.le)

/-! ### The registers of the launch state (R31) -/

theorem reset_readVec (w : Nat) (i : Fin 32) : State.reset.readVec w i = 0#w := by
  simp [State.readVec, State.reset]

theorem reset_readK (i : Fin 8) : State.reset.readK i = 0 := by
  simp [State.readK, State.reset]

end Sys2Proof.Machine

namespace Sys2Proof.Proofs

open Machine Laws

/-- Settles O21: at the end address the run is over. -/
theorem stepAtEndAddressChangesNothing : Obligations.StepAtEndAddressChangesNothing :=
  fun s hend => step_of_ended ((ended_iff s).2 hend)

/-- Settles O53: the operand begins below the top, so the byte at the top is the first of it that is not accessible. -/
theorem operandAcrossTheTopRaisesPf : Obligations.OperandAcrossTheTopRaisesPf := by
  intro i s a hfits hallowed hacc hacross hrefused h16 hcan hdev hbelow
  have hstop := exec_of_admitRead hfits hallowed hacc hrefused
  exact hstop.1 _ (admitRead_of_across_top h16 hcan hdev (access_addr_lt hacc) hacross hbelow)

/-- Settles O60: the vector and opmask registers are 0, memory is empty, and the rest is fixed values. -/
theorem resetHasTheInvariant : Obligations.ResetHasTheInvariant where
  config := by decide
  zmm i := by
    rw [reset_readVec, BitVec.toNat_zero]
    exact Nat.two_pow_pos _
  k i := by
    rw [reset_readK]
    exact Nat.two_pow_pos _
  pc := by decide
  enables := by decide
  mem := reset_mem_wf

end Sys2Proof.Proofs
end

section
/-! O38 to O41, O43, O44. What a form that completes leaves as it was: a frame for each state operation, then one per family of
forms; where pc is after it; and that the flags register and MXCSR take no part in it but for the alignment-check flag. -/

namespace Sys2Proof.Machine

/-! ### The system state and the state operations (R20, R22, R26, R43) -/

theorem KeepsSystem.trans {s t u : State} (hst : KeepsSystem s t) (htu : KeepsSystem t u) : KeepsSystem s u where
  cfg := htu.cfg.trans hst.cfg
  x := htu.x.trans hst.x
  eflags := htu.eflags.trans hst.eflags
  mxcsr := htu.mxcsr.trans hst.mxcsr
  cr0 := htu.cr0.trans hst.cr0
  cr4 := htu.cr4.trans hst.cr4
  xcr0 := htu.xcr0.trans hst.xcr0
  cpl := htu.cpl.trans hst.cpl
  mem a := (htu.mem a).trans (hst.mem a)
  accessible := htu.accessible.trans hst.accessible
  devices := htu.devices.trans hst.devices
  otherWriters := htu.otherWriters.trans hst.otherWriters
  endAddr := htu.endAddr.trans hst.endAddr

theorem KeepsMmx.trans {s t u : State} (hst : KeepsMmx s t) (htu : KeepsMmx t u) : KeepsMmx s u where
  mm := htu.mm.trans hst.mm
  top := htu.top.trans hst.top
  tags := htu.tags.trans hst.tags
  upper := htu.upper.trans hst.upper

section Operations

variable (s : State)

theorem keepsSystem_countRead (acc : Option Access) : KeepsSystem s (s.countRead acc) := by constructor <;> simp

theorem keepsSystem_advance (len : Nat) : KeepsSystem s (s.advance len) := by constructor <;> simp

theorem keepsSystem_enterMmx : KeepsSystem s s.enterMmx := by constructor <;> simp

theorem keepsSystem_writeMm (i : Fin 8) (v : Mm) : KeepsSystem s (s.writeMm i v) := by constructor <;> simp

theorem keepsSystem_writeXmm (i : Fin 32) (v : BitVec 128) : KeepsSystem s (s.writeXmm i v) := by constructor <;> simp

theorem keepsSystem_writeVec (i : Fin 32) {w : Nat} (v : BitVec w) : KeepsSystem s (s.writeVec i v) := by
  constructor <;> simp

theorem keepsSystem_writeK (i : Fin 8) (v : Opmask) : KeepsSystem s (s.writeK i v) := by constructor <;> simp

theorem keepsMmx_countRead (acc : Option Access) : KeepsMmx s (s.countRead acc) := by constructor <;> simp

theorem keepsMmx_advance (len : Nat) : KeepsMmx s (s.advance len) := by constructor <;> simp

theorem keepsMmx_writeXmm (i : Fin 32) (v : BitVec 128) : KeepsMmx s (s.writeXmm i v) := by constructor <;> simp

theorem keepsMmx_writeVec (i : Fin 32) {w : Nat} (v : BitVec w) : KeepsMmx s (s.writeVec i v) := by constructor <;> simp

theorem keepsMmx_writeK (i : Fin 8) (v : Opmask) : KeepsMmx s (s.writeK i v) := by constructor <;> simp

/-! ### The registers beside the one written -/

@[simp] theorem readMm_countRead (acc : Option Access) (j : Fin 8) : (s.countRead acc).readMm j = s.readMm j := by
  cases acc <;> rfl

@[simp] theorem readVec_countRead (w : Nat) (acc : Option Access) (j : Fin 32) :
    (s.countRead acc).readVec w j = s.readVec w j := by
  cases acc <;> rfl

@[simp] theorem readK_countRead (acc : Option Access) (j : Fin 8) : (s.countRead acc).readK j = s.readK j := by
  cases acc <;> rfl

@[simp] theorem readMm_enterMmx (j : Fin 8) : s.enterMmx.readMm j = s.readMm j := rfl

/-- A legacy write keeps what stands above its 128 bits (R113). -/
theorem extractLsb'_writeXmm_above (i : Fin 32) (v : BitVec 128) :
    ((s.writeXmm i v).readVec 512 i).extractLsb' 128 384 = (s.readVec 512 i).extractLsb' 128 384 := by
  apply BitVec.eq_of_getLsbD_eq
  intro j hj
  rw [BitVec.getLsbD_extractLsb', BitVec.getLsbD_extractLsb', writeXmm_bit_above s i v (128 + j) (by omega)]

/-- A VEX write leaves zero above its bits (R121, R124). -/
theorem extractLsb'_writeVec_above (i : Fin 32) {w : Nat} (v : BitVec w) (n : Nat) :
    ((s.writeVec i v).readVec 512 i).extractLsb' w n = 0 := by
  rw [readVec_writeVec_whole]
  apply BitVec.eq_of_getLsbD_eq
  simp

end Operations

/-! ### The frames of the families (R30) -/

section Families

variable {s t : State}

theorem runMmx_frame {f : Mm → Mm → Mm} {p : LegacyPrefix} {dst : Fin 8} {src : Rm 8}
    (h : runMmx f p dst src s = .next t) :
    KeepsSystem s t ∧ t.zmm = s.zmm ∧ t.k = s.k ∧ ∀ j, j ≠ dst → t.readMm j = s.readMm j := by
  obtain ⟨-, rfl⟩ := (runMmx_eq_next ..).1 h
  refine ⟨?system, by simp, by simp, fun j hj => ?other⟩
  case system =>
    exact (keepsSystem_countRead ..).trans <| (keepsSystem_enterMmx _).trans <| (keepsSystem_writeMm ..).trans
      (keepsSystem_advance ..)
  case other => simp [readMm_writeMm_other _ _ _ _ hj]

theorem runSse_frame {f : BitVec 128 → BitVec 128 → BitVec 128} {p : LegacyPrefix} {dst : Fin 16} {src : Rm 16}
    (h : runSse f p dst src s = .next t) :
    KeepsSystem s t ∧ KeepsMmx s t ∧ t.k = s.k ∧ (∀ j, j ≠ vreg dst → t.readVec 512 j = s.readVec 512 j)
      ∧ (t.readVec 512 (vreg dst)).extractLsb' 128 384 = (s.readVec 512 (vreg dst)).extractLsb' 128 384 := by
  obtain ⟨-, rfl⟩ := (runSse_eq_next ..).1 h
  refine ⟨?system, ?mmx, by simp, fun j hj => ?other, ?above⟩
  case system =>
    exact (keepsSystem_countRead ..).trans <| (keepsSystem_writeXmm ..).trans (keepsSystem_advance ..)
  case mmx => exact (keepsMmx_countRead ..).trans <| (keepsMmx_writeXmm ..).trans (keepsMmx_advance ..)
  case other => rw [readVec_advance, State.writeXmm, readVec_writeZmm_other _ _ _ _ _ hj, readVec_countRead]
  case above => rw [readVec_advance, extractLsb'_writeXmm_above, readVec_countRead]

theorem runVex_frame {vl : VecLen} {f : BitVec vl.bits → BitVec vl.bits → BitVec vl.bits} {p : VexPrefix}
    {dst src1 : Fin 16} {src2 : Rm 16} (n : Nat) (h : runVex vl f p dst src1 src2 s = .next t) :
    KeepsSystem s t ∧ KeepsMmx s t ∧ t.k = s.k ∧ (∀ j, j ≠ vreg dst → t.readVec 512 j = s.readVec 512 j)
      ∧ (t.readVec 512 (vreg dst)).extractLsb' vl.bits n = 0 := by
  obtain ⟨-, rfl⟩ := (runVex_eq_next ..).1 h
  refine ⟨?system, ?mmx, by simp, fun j hj => ?other, ?above⟩
  case system =>
    exact (keepsSystem_countRead ..).trans <| (keepsSystem_writeVec ..).trans (keepsSystem_advance ..)
  case mmx => exact (keepsMmx_countRead ..).trans <| (keepsMmx_writeVec ..).trans (keepsMmx_advance ..)
  case other => rw [readVec_advance, State.writeVec, readVec_writeZmm_other _ _ _ _ _ hj, readVec_countRead]
  case above => rw [readVec_advance, extractLsb'_writeVec_above]

/-- An opmask register written between the count of an operand read and the advance of pc: the end of every EVEX form. -/
theorem writeK_frame (s : State) (acc : Option Access) (dst : Fin 8) (v : Opmask) (len : Nat) :
    KeepsSystem s (((s.countRead acc).writeK dst v).advance len)
      ∧ KeepsMmx s (((s.countRead acc).writeK dst v).advance len)
      ∧ (((s.countRead acc).writeK dst v).advance len).zmm = s.zmm
      ∧ ∀ j, j ≠ dst → (((s.countRead acc).writeK dst v).advance len).readK j = s.readK j :=
  ⟨(keepsSystem_countRead ..).trans <| (keepsSystem_writeK ..).trans (keepsSystem_advance ..),
    (keepsMmx_countRead ..).trans <| (keepsMmx_writeK ..).trans (keepsMmx_advance ..), by simp,
    fun j hj => by rw [readK_advance, readK_writeK_other _ _ _ _ hj, readK_countRead]⟩

theorem runEvexD_frame {vl : VecLen} {a32 : Bool} {dst : Fin 8} {mask : Option (Fin 8)} {src1 : Fin 32} {src2 : RmBcst}
    (h : runEvexD vl a32 dst mask src1 src2 s = .next t) :
    KeepsSystem s t ∧ KeepsMmx s t ∧ t.zmm = s.zmm ∧ ∀ j, j ≠ dst → t.readK j = s.readK j := by
  obtain ⟨-, rfl⟩ := (runEvexD_eq_next ..).1 h
  exact writeK_frame ..

theorem runEvexBW_frame {w : Nat} {vl : VecLen} {a32 : Bool} {dst : Fin 8} {mask : Option (Fin 8)} {src1 : Fin 32}
    {src2 : Rm 32} (h : runEvexBW w vl a32 dst mask src1 src2 s = .next t) :
    KeepsSystem s t ∧ KeepsMmx s t ∧ t.zmm = s.zmm ∧ ∀ j, j ≠ dst → t.readK j = s.readK j := by
  obtain ⟨-, rfl⟩ := (runEvexBW_eq_next ..).1 h
  exact writeK_frame ..

/-- No instruction that completes touches the system state, by the family it belongs to. -/
theorem exec_keepsSystem {i : Instr} (h : exec i s = .next t) : KeepsSystem s t := by
  cases i with
  | pcmpeqbMm | pcmpeqwMm | pcmpeqdMm => exact (runMmx_frame h).1
  | pcmpeqbXmm | pcmpeqwXmm | pcmpeqdXmm => exact (runSse_frame h).1
  | vpcmpeqbXmm | vpcmpeqwXmm | vpcmpeqdXmm => exact (runVex_frame (vl := .v128) 0 h).1
  | vpcmpeqbYmm | vpcmpeqwYmm | vpcmpeqdYmm => exact (runVex_frame (vl := .v256) 0 h).1
  | vpcmpeqdK128 | vpcmpeqdK256 | vpcmpeqdK512 => exact (runEvexD_frame h).1
  | vpcmpeqbK128 | vpcmpeqbK256 | vpcmpeqbK512 => exact (runEvexBW_frame (w := 8) h).1
  | vpcmpeqwK128 | vpcmpeqwK256 | vpcmpeqwK512 => exact (runEvexBW_frame (w := 16) h).1

/-! ### Where pc is after an instruction (R21, R108) -/

theorem runMmx_pc {f : Mm → Mm → Mm} {p : LegacyPrefix} {dst : Fin 8} {src : Rm 8}
    (h : runMmx f p dst src s = .next t) : t.pc = s.pc + BitVec.ofNat 64 (mmLen p src) := by
  obtain ⟨-, rfl⟩ := (runMmx_eq_next ..).1 h
  simp

theorem runSse_pc {f : BitVec 128 → BitVec 128 → BitVec 128} {p : LegacyPrefix} {dst : Fin 16} {src : Rm 16}
    (h : runSse f p dst src s = .next t) : t.pc = s.pc + BitVec.ofNat 64 (xmmLen p src) := by
  obtain ⟨-, rfl⟩ := (runSse_eq_next ..).1 h
  simp

theorem runVex_pc {vl : VecLen} {f : BitVec vl.bits → BitVec vl.bits → BitVec vl.bits} {p : VexPrefix}
    {dst src1 : Fin 16} {src2 : Rm 16} (h : runVex vl f p dst src1 src2 s = .next t) :
    t.pc = s.pc + BitVec.ofNat 64 (vexLen p src2) := by
  obtain ⟨-, rfl⟩ := (runVex_eq_next ..).1 h
  simp

theorem runEvexD_pc {vl : VecLen} {a32 : Bool} {dst : Fin 8} {mask : Option (Fin 8)} {src1 : Fin 32} {src2 : RmBcst}
    (h : runEvexD vl a32 dst mask src1 src2 s = .next t) : t.pc = s.pc + BitVec.ofNat 64 (evexLen a32 src2.len) := by
  obtain ⟨-, rfl⟩ := (runEvexD_eq_next ..).1 h
  simp

theorem runEvexBW_pc {w : Nat} {vl : VecLen} {a32 : Bool} {dst : Fin 8} {mask : Option (Fin 8)} {src1 : Fin 32}
    {src2 : Rm 32} (h : runEvexBW w vl a32 dst mask src1 src2 s = .next t) :
    t.pc = s.pc + BitVec.ofNat 64 (evexLen a32 src2.len) := by
  obtain ⟨-, rfl⟩ := (runEvexBW_eq_next ..).1 h
  simp

/-- Every instruction that completes advances pc by its length, by the family it belongs to. -/
theorem exec_pc {i : Instr} (h : exec i s = .next t) : t.pc = s.pc + BitVec.ofNat 64 i.len := by
  cases i with
  | pcmpeqbMm | pcmpeqwMm | pcmpeqdMm => exact runMmx_pc h
  | pcmpeqbXmm | pcmpeqwXmm | pcmpeqdXmm => exact runSse_pc h
  | vpcmpeqbXmm | vpcmpeqwXmm | vpcmpeqdXmm => exact runVex_pc (vl := .v128) h
  | vpcmpeqbYmm | vpcmpeqwYmm | vpcmpeqdYmm => exact runVex_pc (vl := .v256) h
  | vpcmpeqdK128 | vpcmpeqdK256 | vpcmpeqdK512 => exact runEvexD_pc h
  | vpcmpeqbK128 | vpcmpeqbK256 | vpcmpeqbK512 => exact runEvexBW_pc (w := 8) h
  | vpcmpeqwK128 | vpcmpeqwK256 | vpcmpeqwK512 => exact runEvexBW_pc (w := 16) h

/-- An instruction that completes was ready: its checks went on. -/
theorem formReady_of_exec_next {i : Instr} (h : exec i s = .next t) :
    formReady i.formClass i.len (i.access s) s = true := by
  refine (checkForm_eq_next _ _ _ s ()).1 ?_
  rw [← exec_forget_eq_checkForm, h, andThen_next]

end Families

theorem addrBits_le (s : State) : s.addrBits ≤ 64 := by
  unfold State.addrBits
  split <;> decide

/-- An advance that stays within the address space is one of the numbers. -/
theorem toNat_add_of_fits {s : State} {len : Nat} (h : s.pc.toNat + len < 2 ^ s.addrBits) :
    (s.pc + BitVec.ofNat 64 len).toNat = s.pc.toNat + len := by
  have htop : 2 ^ s.addrBits ≤ 2 ^ 64 := Nat.pow_le_pow_right (by decide) (addrBits_le s)
  rw [BitVec.toNat_add, BitVec.toNat_ofNat, Nat.add_mod_mod, Nat.mod_eq_of_lt (by omega)]

/-! ### The flags register and MXCSR (R22) -/

/-- The state with other contents of the flags register and of MXCSR. -/
def State.withFlags (s : State) (f : BitVec 64) (m : BitVec 32) : State := { s with eflags := f, mxcsr := m }

section Flags

variable (s : State) (f : BitVec 64) (m : BitVec 32)

theorem countRead_withFlags (acc : Option Access) :
    (s.withFlags f m).countRead acc = (s.countRead acc).withFlags f m := by
  cases acc <;> rfl

theorem memRead_withFlags (w : Nat) (a : Addr) : (s.withFlags f m).memRead w a = s.memRead w a :=
  memRead_congr (t := s.withFlags f m) (s := s) (fun _ => rfl) w a

theorem mmSource_withFlags (p : LegacyPrefix) (src : Rm 8) : mmSource p src (s.withFlags f m) = mmSource p src s := by
  cases src with
  | reg r => rfl
  | mem o => exact memRead_withFlags s f m _ _

theorem xmmSource_withFlags (p : LegacyPrefix) (src : Rm 16) :
    xmmSource p src (s.withFlags f m) = xmmSource p src s := by
  cases src with
  | reg r => rfl
  | mem o => exact memRead_withFlags s f m _ _

theorem vexSource_withFlags (vl : VecLen) (p : VexPrefix) (src2 : Rm 16) :
    vexSource vl p src2 (s.withFlags f m) = vexSource vl p src2 s := by
  cases src2 with
  | reg r => rfl
  | mem o => exact memRead_withFlags s f m _ _

theorem evexSource_withFlags (vl : VecLen) (a32 : Bool) (src2 : Rm 32) :
    evexSource vl a32 src2 (s.withFlags f m) = evexSource vl a32 src2 s := by
  cases src2 with
  | reg r => rfl
  | mem o => exact memRead_withFlags s f m _ _

theorem evexDSource_withFlags (vl : VecLen) (a32 : Bool) (src2 : RmBcst) :
    evexDSource vl a32 src2 (s.withFlags f m) = evexDSource vl a32 src2 s := by
  cases src2 with
  | reg r => rfl
  | mem o => exact memRead_withFlags s f m _ _
  | bcst o => exact congrArg (broadcast vl.bits) (memRead_withFlags s f m _ _)

variable {s f} (h : f.getLsbD 18 = s.eflags.getLsbD 18)

include h

theorem acChecking_withFlags : (s.withFlags f m).acChecking = s.acChecking := by
  have hflag : (s.withFlags f m).acFlag = s.acFlag := h
  unfold State.acChecking
  rw [hflag]
  rfl

theorem admitRead_withFlags (c : FormClass) (a : Access) : admitRead c a (s.withFlags f m) = admitRead c a s := by
  have hdevice := touchesDevice_congr (t := s.withFlags f m) (s := s) fun _ => rfl
  have hfirst := firstInaccessible_congr (t := s.withFlags f m) (s := s) fun _ => rfl
  unfold admitRead
  rw [hdevice, hfirst, acChecking_withFlags m h]
  rfl

theorem formRefusal_withFlags (c : FormClass) (len : Nat) (acc : Option Access) :
    formRefusal c len acc (s.withFlags f m) = formRefusal c len acc s := by
  unfold formRefusal alignmentRefused
  rw [acChecking_withFlags m h]
  rfl

theorem checkForm_withFlags (c : FormClass) (len : Nat) (acc : Option Access) :
    checkForm c len acc (s.withFlags f m) = checkForm c len acc s := by
  have hoperand : admitOperand c acc (s.withFlags f m) = admitOperand c acc s := by
    cases acc with
    | none => rfl
    | some a => exact admitRead_withFlags m h c a
  unfold checkForm
  rw [hoperand, formRefusal_withFlags m h]
  rfl

/-- A form whose written state differs in the flags register and MXCSR alone answers the same but for these. -/
theorem checked_withFlags (c : FormClass) (len : Nat) (acc : Option Access) {u u' : State} (hu : u' = u.withFlags f m) :
    andThen (checkForm c len acc (s.withFlags f m)) (fun _ => .next u')
      = andThen (andThen (checkForm c len acc s) fun _ => .next u) fun t => .next (t.withFlags f m) := by
  rw [checkForm_withFlags m h, hu]
  cases checkForm c len acc s <;> rfl

theorem runMmx_withFlags (g : Mm → Mm → Mm) (p : LegacyPrefix) (dst : Fin 8) (src : Rm 8) :
    runMmx g p dst src (s.withFlags f m) = andThen (runMmx g p dst src s) fun t => .next (t.withFlags f m) := by
  have hacc : mmAccess p src (s.withFlags f m) = mmAccess p src s := by cases src <;> rfl
  rw [runMmx, hacc, mmSource_withFlags, countRead_withFlags]
  exact checked_withFlags m h _ _ _ rfl

theorem runSse_withFlags (g : BitVec 128 → BitVec 128 → BitVec 128) (p : LegacyPrefix) (dst : Fin 16) (src : Rm 16) :
    runSse g p dst src (s.withFlags f m) = andThen (runSse g p dst src s) fun t => .next (t.withFlags f m) := by
  have hacc : xmmAccess p src (s.withFlags f m) = xmmAccess p src s := by cases src <;> rfl
  rw [runSse, hacc, xmmSource_withFlags, countRead_withFlags]
  exact checked_withFlags m h _ _ _ rfl

theorem runVex_withFlags (vl : VecLen) (g : BitVec vl.bits → BitVec vl.bits → BitVec vl.bits) (p : VexPrefix)
    (dst src1 : Fin 16) (src2 : Rm 16) :
    runVex vl g p dst src1 src2 (s.withFlags f m)
      = andThen (runVex vl g p dst src1 src2 s) fun t => .next (t.withFlags f m) := by
  have hacc : vexAccess vl p src2 (s.withFlags f m) = vexAccess vl p src2 s := by cases src2 <;> rfl
  rw [runVex, hacc, vexSource_withFlags, countRead_withFlags]
  exact checked_withFlags m h _ _ _ rfl

theorem runEvexD_withFlags (vl : VecLen) (a32 : Bool) (dst : Fin 8) (mask : Option (Fin 8)) (src1 : Fin 32)
    (src2 : RmBcst) :
    runEvexD vl a32 dst mask src1 src2 (s.withFlags f m)
      = andThen (runEvexD vl a32 dst mask src1 src2 s) fun t => .next (t.withFlags f m) := by
  have hacc : evexDAccess vl a32 src2 (s.withFlags f m) = evexDAccess vl a32 src2 s := by cases src2 <;> rfl
  rw [runEvexD, hacc, evexDSource_withFlags, countRead_withFlags]
  exact checked_withFlags m h _ _ _ rfl

theorem runEvexBW_withFlags (w : Nat) (vl : VecLen) (a32 : Bool) (dst : Fin 8) (mask : Option (Fin 8)) (src1 : Fin 32)
    (src2 : Rm 32) :
    runEvexBW w vl a32 dst mask src1 src2 (s.withFlags f m)
      = andThen (runEvexBW w vl a32 dst mask src1 src2 s) fun t => .next (t.withFlags f m) := by
  have hacc : evexAccess vl a32 src2 (s.withFlags f m) = evexAccess vl a32 src2 s := by cases src2 <;> rfl
  rw [runEvexBW, hacc, evexSource_withFlags, countRead_withFlags]
  exact checked_withFlags m h _ _ _ rfl

/-- No bit of the flags register or of MXCSR but the alignment-check flag reaches an outcome, by family. -/
theorem exec_withFlags (i : Instr) :
    exec i (s.withFlags f m) = andThen (exec i s) fun t => .next (t.withFlags f m) := by
  cases i with
  | pcmpeqbMm | pcmpeqwMm | pcmpeqdMm => exact runMmx_withFlags m h ..
  | pcmpeqbXmm | pcmpeqwXmm | pcmpeqdXmm => exact runSse_withFlags m h ..
  | vpcmpeqbXmm | vpcmpeqwXmm | vpcmpeqdXmm => exact runVex_withFlags m h .v128 ..
  | vpcmpeqbYmm | vpcmpeqwYmm | vpcmpeqdYmm => exact runVex_withFlags m h .v256 ..
  | vpcmpeqdK128 | vpcmpeqdK256 | vpcmpeqdK512 => exact runEvexD_withFlags m h ..
  | vpcmpeqbK128 | vpcmpeqbK256 | vpcmpeqbK512 => exact runEvexBW_withFlags m h 8 ..
  | vpcmpeqwK128 | vpcmpeqwK256 | vpcmpeqwK512 => exact runEvexBW_withFlags m h 16 ..

end Flags

/-- None of the exceptions of the model is #XM (R22, R151). -/
theorem vector_ne_xm (e : Fault) : e.vector ≠ 19 := by cases e <;> simp [Fault.vector]

end Sys2Proof.Machine

namespace Sys2Proof.Proofs

open Machine

/-- Settles O38: the three compares of the MMX family. -/
theorem mmxFormsFrame : Obligations.MmxFormsFrame := by
  intro p dst src i hi s t h
  fin_cases hi <;> exact runMmx_frame h

/-- Settles O39: the three compares of the legacy SSE2 family. -/
theorem sseFormsFrame : Obligations.SseFormsFrame := by
  intro p dst src i hi s t h
  fin_cases hi <;> exact runSse_frame h

/-- Settles O40: the three compares of the VEX family at 128 bits, then at 256; a form leaves zero in all bits above its
vector length. -/
theorem vexFormsFrame : Obligations.VexFormsFrame := by
  intro p dst src1 src2 s t
  refine ⟨fun i hi h => ?xmm, fun i hi h => ?ymm⟩
  case xmm =>
    fin_cases hi <;> exact runVex_frame (vl := .v128) 384 h
  case ymm =>
    fin_cases hi <;> exact runVex_frame (vl := .v256) 256 h

/-- Settles O41: the doubleword forms, then the byte and the word forms. -/
theorem evexFormsFrame : Obligations.EvexFormsFrame := by
  intro a32 dst mask src1 d r i hi s t h
  fin_cases hi
  · exact runEvexD_frame h
  · exact runEvexD_frame h
  · exact runEvexD_frame h
  · exact runEvexBW_frame (w := 8) h
  · exact runEvexBW_frame (w := 8) h
  · exact runEvexBW_frame (w := 8) h
  · exact runEvexBW_frame (w := 16) h
  · exact runEvexBW_frame (w := 16) h
  · exact runEvexBW_frame (w := 16) h

/-- Settles O43: the flags are part of the system state, which is kept; only the alignment-check flag is consulted; and the
exceptions of the model have other vectors. -/
theorem flagsAreNeitherWrittenNorRead : Obligations.FlagsAreNeitherWrittenNorRead := by
  refine ⟨fun i s t h => ?kept, fun i s f m hac => exec_withFlags m hac i, fun i s e _ => vector_ne_xm e⟩
  case kept => exact ⟨(exec_keepsSystem h).eflags, (exec_keepsSystem h).mxcsr⟩

/-- Settles O44: a form that completes fits in the address space, so the sum does not wrap. -/
theorem everyInstructionAdvancesPc : Obligations.EveryInstructionAdvancesPc := by
  intro i s t h
  obtain ⟨hfits, -⟩ := (formReady_iff ..).1 (formReady_of_exec_next h)
  rw [exec_pc h, toNat_add_of_fits hfits]
  exact ⟨rfl, hfits⟩

end Sys2Proof.Proofs
end

section
/-! O18. The operand that stands in for another one among the listed completions: as long or shorter, and under alignment
checking at an address that is the same modulo 64. -/

namespace Sys2Proof

open Machine

/-- The memory operand `m'` can stand in for `m`: it has no more bytes, and under alignment checking as many, and an address
that agrees with that of `m` in its low six bits, on which alone R44 depends. -/
structure MemOp.StandsFor (check : Bool) (m' m : MemOp) : Prop where
  len_le : m'.len ≤ m.len
  len_eq : check = true → m'.len = m.len
  address : check = true → ∀ (s : State) (size n : Nat) (next : Addr),
    (s.rawAddress size n next m').setWidth 6 = (s.rawAddress size n next m).setWidth 6

/-- The r/m operand `src'` can stand in for `src`: both are registers, or both in memory. -/
inductive Rm.StandsFor (check : Bool) {n : Nat} : Rm n → Rm n → Prop where
  | reg (r' r : Fin n) : Rm.StandsFor check (.reg r') (.reg r)
  | mem {m' m : MemOp} (h : m'.StandsFor check m) : Rm.StandsFor check (.mem m') (.mem m)

end Sys2Proof

namespace Sys2Proof.Laws

open Machine

/-! ### Displacements (R65) -/

theorem setWidth_six_signExtend {w : Nat} (hw : 6 ≤ w) (v : BitVec w) : (v.signExtend 64).setWidth 6 = v.setWidth 6 := by
  apply BitVec.eq_of_getLsbD_eq
  intro j hj
  have hjw : j < w := by omega
  have hj64 : j < 64 := by omega
  rw [BitVec.getLsbD_setWidth, BitVec.getLsbD_setWidth, BitVec.getLsbD_signExtend, if_pos hjw, decide_eq_true hj64,
    Bool.true_and]

theorem setWidth_six_eq {w : Nat} {v' v : BitVec w} (h : v'.toNat % 64 = v.toNat % 64) : v'.setWidth 6 = v.setWidth 6 :=
  BitVec.eq_of_toNat_eq (by simpa using h)

theorem dispValue_d8_congr {d' d : BitVec 8} (h : d'.toNat % 64 = d.toNat % 64) (n : Nat) :
    (Disp.value n (.d8 d')).setWidth 6 = (Disp.value n (.d8 d)).setWidth 6 := by
  simp only [Disp.value, BitVec.setWidth_mul _ _ (show 6 ≤ 64 by decide), setWidth_six_signExtend (show 6 ≤ 8 by decide),
    setWidth_six_eq h]

theorem signExtend_d32_congr {d' d : BitVec 32} (h : d'.toNat % 64 = d.toNat % 64) :
    (d'.signExtend 64).setWidth 6 = (d.signExtend 64).setWidth 6 := by
  rw [setWidth_six_signExtend (by decide), setWidth_six_signExtend (by decide), setWidth_six_eq h]

variable {check : Bool}

/-- For every byte there is a listed displacement that agrees with it where alignment is checked. -/
theorem exists_displacementTail (check : Bool) (b : Byte) :
    ∃ c : Byte, [c, 0, 0, 0] ∈ displacementTails check ∧ (check = true → c.toNat % 64 = b.toNat % 64) := by
  cases check with
  | false => exact ⟨0, List.mem_singleton.2 rfl, nofun⟩
  | true =>
    have hlow : b.toNat % 64 < 64 := Nat.mod_lt _ (by decide)
    refine ⟨BitVec.ofNat 8 (b.toNat % 64), List.mem_map.2 ⟨b.toNat % 64, List.mem_range.2 hlow, rfl⟩, fun _ => ?_⟩
    rw [BitVec.toNat_ofNat]
    omega

/-- The low byte of a displacement is its first. -/
theorem toNat_mod_of_readD32 {b : Byte} {bs rest : List Byte} {d : BitVec 32} (h : readD32 (b :: bs) = some (d, rest)) :
    d.toNat % 64 = b.toNat % 64 := by
  match bs, h with
  | b1 :: b2 :: b3 :: bs, h =>
    cases h
    simp only [BitVec.toNat_ofNat]
    omega

theorem exists_readD32 {bs : List Byte} (h : 4 ≤ bs.length) : ∃ d rest, readD32 bs = some (d, rest) := by
  match bs, h with
  | b0 :: b1 :: b2 :: b3 :: bs, _ => exact ⟨_, _, rfl⟩

theorem readD32_standIn {bs u rest : List Byte} {d : BitVec 32} (h : readD32 (bs ++ u) = some (d, rest)) :
    ∃ tail ∈ displacementTails check, ∃ d' rest', readD32 (bs ++ tail) = some (d', rest')
      ∧ (check = true → d'.toNat % 64 = d.toNat % 64) := by
  obtain ⟨c, hc, hlow⟩ := exists_displacementTail check (u.headD 0)
  obtain ⟨d', rest', hd'⟩ := exists_readD32 (bs := bs ++ [c, 0, 0, 0]) (by simp)
  refine ⟨_, hc, d', rest', hd', fun hcheck => ?_⟩
  match bs, u with
  | [], [] => cases h
  | [], b :: u =>
    calc d'.toNat % 64 = c.toNat % 64 := toNat_mod_of_readD32 hd'
      _ = b.toNat % 64 := hlow hcheck
      _ = d.toNat % 64 := (toNat_mod_of_readD32 h).symm
  | b :: bs, _ => exact (toNat_mod_of_readD32 hd').trans (toNat_mod_of_readD32 h).symm

theorem readDisp_standIn {mod : Nat} (hmod : mod < 3) {bs u rest : List Byte} {d : Disp}
    (h : readDisp mod (bs ++ u) = some (d, rest)) :
    ∃ tail ∈ displacementTails check, ∃ d' rest', readDisp mod (bs ++ tail) = some (d', rest') ∧ d'.len = d.len
      ∧ (check = true → ∀ n, (Disp.value n d').setWidth 6 = (Disp.value n d).setWidth 6) := by
  match mod, hmod with
  | 0, _ =>
    cases h
    obtain ⟨c, hc, -⟩ := exists_displacementTail check 0
    exact ⟨_, hc, _, _, rfl, rfl, fun _ _ => rfl⟩
  | 1, _ =>
    match bs, u, h with
    | [], b :: u, h =>
      cases h
      obtain ⟨c, hc, hlow⟩ := exists_displacementTail check b
      exact ⟨_, hc, _, _, rfl, rfl, fun hcheck n => dispValue_d8_congr (hlow hcheck) n⟩
    | b :: bs, _, h =>
      cases h
      obtain ⟨c, hc, -⟩ := exists_displacementTail check 0
      exact ⟨_, hc, _, _, rfl, rfl, fun _ _ => rfl⟩
  | 2, _ =>
    have htwo : ∀ bs, readDisp 2 bs = (readD32 bs).map fun r => (.d32 r.1, r.2) := fun bs => by
      cases hd : readD32 bs <;> simp [readDisp, hd]
    rw [htwo, Option.map_eq_some_iff] at h
    obtain ⟨⟨d0, rest0⟩, hread, hd⟩ := h
    cases hd
    obtain ⟨tail, htail, d', rest', hread', hlow⟩ := readD32_standIn (check := check) hread
    exact ⟨tail, htail, .d32 d', rest', by rw [htwo, hread']; rfl, rfl, fun hcheck _ => signExtend_d32_congr (hlow hcheck)⟩

theorem dispLen_of_readDisp {mod : Nat} (hmod : mod < 3) {bs rest : List Byte} {d : Disp}
    (h : readDisp mod bs = some (d, rest)) : d.len = dispLen mod := by
  obtain ⟨-, rfl⟩ := readDisp_eq_some hmod h
  cases d <;> rfl

theorem readDisp_zeros {mod : Nat} (hmod : mod < 3) : ∃ d rest, readDisp mod [0, 0, 0, 0] = some (d, rest) := by
  interval_cases mod <;> exact ⟨_, _, rfl⟩

/-! ### Memory operands (R65) -/

section Addresses

variable {d' d : Disp} (hlen : d'.len = d.len)
  (hvalue : check = true → ∀ n, (Disp.value n d').setWidth 6 = (Disp.value n d).setWidth 6)

include hlen hvalue

theorem standsFor_base (b : Fin 16) : (MemOp.base b d').StandsFor check (.base b d) where
  len_le := hlen.le
  len_eq _ := hlen
  address hcheck s size n next := by
    simp only [State.rawAddress, BitVec.setWidth_add _ _ (show 6 ≤ 64 by decide), hvalue hcheck]

theorem standsFor_sib (b idx : Fin 16) (scale : Fin 4) : (MemOp.sib b idx scale d').StandsFor check (.sib b idx scale d) where
  len_le := (congrArg (1 + ·) hlen).le
  len_eq _ := congrArg (1 + ·) hlen
  address hcheck s size n next := by
    simp only [State.rawAddress, BitVec.setWidth_add _ _ (show 6 ≤ 64 by decide), hvalue hcheck]

end Addresses

section Addresses

variable {d' d : BitVec 32} (hlow : check = true → d'.toNat % 64 = d.toNat % 64)

include hlow

theorem standsFor_dispOnly : (MemOp.dispOnly d').StandsFor check (.dispOnly d) where
  len_le := le_rfl
  len_eq _ := rfl
  address hcheck s size n next := by
    simp only [State.rawAddress, BitVec.setWidth_add _ _ (show 6 ≤ 64 by decide), signExtend_d32_congr (hlow hcheck)]

theorem standsFor_sibNoBase (idx : Fin 16) (scale : Fin 4) :
    (MemOp.sibNoBase idx scale d').StandsFor check (.sibNoBase idx scale d) where
  len_le := le_rfl
  len_eq _ := rfl
  address hcheck s size n next := by
    simp only [State.rawAddress, BitVec.setWidth_add _ _ (show 6 ≤ 64 by decide), signExtend_d32_congr (hlow hcheck)]

end Addresses

section Operand

variable {mod rm x b : Nat} (hmod : mod < 3)

include hmod

/-- An operand whose SIB byte is there. -/
theorem readMem_sib_standIn {sib : Byte} {bs u rest : List Byte} {m : MemOp}
    (h : readMem mod 4 x b (sib :: (bs ++ u)) = some (m, rest)) :
    ∃ tail ∈ displacementTails check, ∃ m' rest', readMem mod 4 x b (sib :: (bs ++ tail)) = some (m', rest')
      ∧ m'.StandsFor check m := by
  by_cases hnobase : mod = 0 ∧ bits sib 0 3 = 5
  · obtain ⟨rfl, h5⟩ := hnobase
    cases hd : readD32 (bs ++ u) with
    | none => simp [readMem, h5, hd] at h
    | some r =>
      rw [readMem_sib_nobase h5 (d := r.1) (rest := r.2) hd] at h
      cases h
      obtain ⟨tail, htail, d', rest', hd', hlow⟩ := readD32_standIn (check := check) hd
      exact ⟨tail, htail, _, _, readMem_sib_nobase h5 hd', standsFor_sibNoBase hlow _ _⟩
  · cases hd : readDisp mod (bs ++ u) with
    | none => simp [readMem, hnobase, hd] at h
    | some r =>
      rw [readMem_sib hnobase (d := r.1) (rest := r.2) hd] at h
      cases h
      obtain ⟨tail, htail, d', rest', hd', hlen, hvalue⟩ := readDisp_standIn (check := check) hmod hd
      exact ⟨tail, htail, _, _, readMem_sib hnobase hd', standsFor_sib hlen hvalue _ _ _⟩

/-- An operand without a SIB byte. -/
theorem readMem_noSib_standIn (h4 : rm ≠ 4) {bs u rest : List Byte} {m : MemOp}
    (h : readMem mod rm x b (bs ++ u) = some (m, rest)) :
    ∃ tail ∈ displacementTails check, ∃ m' rest', readMem mod rm x b (bs ++ tail) = some (m', rest')
      ∧ m'.StandsFor check m := by
  by_cases h5 : mod = 0 ∧ rm = 5
  · obtain ⟨rfl, rfl⟩ := h5
    cases hd : readD32 (bs ++ u) with
    | none => simp [readMem, hd] at h
    | some r =>
      rw [readMem_dispOnly (d := r.1) (rest := r.2) hd] at h
      cases h
      obtain ⟨tail, htail, d', rest', hd', hlow⟩ := readD32_standIn (check := check) hd
      exact ⟨tail, htail, _, _, readMem_dispOnly hd', standsFor_dispOnly hlow⟩
  · cases hd : readDisp mod (bs ++ u) with
    | none => simp [readMem, h4, h5, hd] at h
    | some r =>
      rw [readMem_base h4 h5 (d := r.1) (rest := r.2) hd] at h
      cases h
      obtain ⟨tail, htail, d', rest', hd', hlen, hvalue⟩ := readDisp_standIn (check := check) hmod hd
      exact ⟨tail, htail, _, _, readMem_base h4 h5 hd', standsFor_base hlen hvalue _⟩

/-- An operand with a SIB byte has that byte and the displacement that mod selects at least. -/
theorem le_len_of_readMem_sib {bs rest : List Byte} {m : MemOp} (h : readMem mod 4 x b bs = some (m, rest)) :
    1 + dispLen mod ≤ m.len := by
  match bs, h with
  | sib :: bs, h =>
    by_cases hnobase : mod = 0 ∧ bits sib 0 3 = 5
    · obtain ⟨rfl, h5⟩ := hnobase
      cases hd : readD32 bs with
      | none => simp [readMem, h5, hd] at h
      | some r =>
        rw [readMem_sib_nobase h5 (d := r.1) (rest := r.2) hd] at h
        cases h
        exact (by decide : 1 + dispLen 0 ≤ 5)
    · cases hd : readDisp mod bs with
      | none => simp [readMem, hnobase, hd] at h
      | some r =>
        rw [readMem_sib hnobase (d := r.1) (rest := r.2) hd] at h
        cases h
        exact (congrArg (1 + ·) (dispLen_of_readDisp hmod hd)).ge

/-- The SIB byte and what follows it, where they are missing: the same SIB byte where alignment is checked, and otherwise 00, which
no displacement has to follow. -/
theorem readMem_missing_sib_standIn {u rest : List Byte} {m : MemOp} (h : readMem mod 4 x b u = some (m, rest)) :
    ∃ tail ∈ sibTails check, ∃ m' rest', readMem mod 4 x b tail = some (m', rest') ∧ m'.StandsFor check m := by
  match u, h with
  | sib :: u, h =>
    cases check with
    | true =>
      obtain ⟨tail, htail, m', rest', hm', hstands⟩ :=
        readMem_sib_standIn (check := true) hmod (bs := []) h
      refine ⟨sib :: tail, List.mem_flatMap.2 ⟨sib.toNat, List.mem_range.2 sib.isLt, List.mem_map.2 ⟨tail, htail, ?_⟩⟩,
        m', rest', hm', hstands⟩
      rw [BitVec.ofNat_toNat, BitVec.setWidth_eq]
    | false =>
      have hbase : ¬ (mod = 0 ∧ bits (0 : Byte) 0 3 = 5) := fun h5 => absurd h5.2 (by decide)
      obtain ⟨d', rest', hd'⟩ := readDisp_zeros hmod
      refine ⟨[0, 0, 0, 0, 0], List.mem_singleton.2 rfl, _, _, readMem_sib hbase hd', ?_, nofun, nofun⟩
      exact (congrArg (1 + ·) (dispLen_of_readDisp hmod hd')).le.trans (le_len_of_readMem_sib hmod h)

/-- What follows a ModRM byte of a memory operand: a SIB byte is missing where there is none of it yet. -/
theorem readMem_standIn {bs u rest : List Byte} {m : MemOp} (h : readMem mod rm x b (bs ++ u) = some (m, rest)) :
    ∃ tail ∈ (if rm = 4 ∧ bs = [] then sibTails check else displacementTails check), ∃ m' rest',
      readMem mod rm x b (bs ++ tail) = some (m', rest') ∧ m'.StandsFor check m := by
  by_cases h4 : rm = 4
  · subst h4
    match bs with
    | [] => exact readMem_missing_sib_standIn hmod h
    | sib :: bs =>
      rw [if_neg (by simp)]
      exact readMem_sib_standIn hmod h
  · rw [if_neg fun h => h4 h.1]
    exact readMem_noSib_standIn hmod h4 h

end Operand

/-! ### The r/m operand and ModRM (R64, R65) -/

section ModRM

variable {n : Nat} [NeZero n] {modrm : Byte} {reg x b : Nat}

theorem readRm_eq_some_of_mem {bs rest : List Byte} {src : Rm n} (hmod : bits modrm 6 2 ≠ 3)
    (h : readRm n modrm reg x b bs = some (src, rest)) :
    ∃ m, src = .mem m ∧ readMem (bits modrm 6 2) (bits modrm 0 3) x b bs = some (m, rest) := by
  rw [readRm, if_neg hmod] at h
  split at h
  · next hm =>
    cases h
    exact ⟨_, rfl, hm⟩
  · cases h

/-- The bytes after ModRM, where not all of them are there: a listed completion gives an operand that can stand in for any. -/
theorem readRm_standIn (check : Bool) {bs u rest : List Byte} {src : Rm n} (hnone : readRm n modrm reg x b bs = none)
    (h : readRm n modrm reg x b (bs ++ u) = some (src, rest)) :
    ∃ tail ∈ completionTails check (missingAfter modrm bs), ∃ src' rest',
      readRm n modrm reg x b (bs ++ tail) = some (src', rest') ∧ src'.StandsFor check src := by
  obtain ⟨hmod, -⟩ := readRm_none hnone
  obtain ⟨m, rfl, hm⟩ := readRm_eq_some_of_mem hmod h
  obtain ⟨tail, htail, m', rest', hm', hstands⟩ := readMem_standIn (check := check) (mod_lt_three hmod) hm
  refine ⟨tail, ?_, _, _, readRm_of_mem hmod hm', .mem hstands⟩
  unfold missingAfter
  split_ifs at htail ⊢ <;> exact htail

/-- ModRM and what follows it, where all of it is missing: a listed completion has the same mod and an operand that can stand in;
the register that it names where it is a register operand does not matter. -/
theorem modrm_standIn (check : Bool) {u rest : List Byte} {src : Rm n} (h : readRm n modrm reg x b u = some (src, rest)) :
    ∃ modrm' tail, modrm' :: tail ∈ modrmTails check ∧ bits modrm' 6 2 = bits modrm 6 2 ∧ ∀ reg', ∃ src' rest',
      readRm n modrm' reg' x b tail = some (src', rest') ∧ src'.StandsFor check src := by
  by_cases hmod : bits modrm 6 2 = 3
  · rw [readRm_of_register hmod] at h
    cases h
    have hC0 : bits (0xC0 : Byte) 6 2 = 3 := by decide
    exact ⟨0xC0, [], List.mem_cons_self, hC0.trans hmod.symm, fun reg' => ⟨_, _, readRm_of_register hC0 _, .reg _ _⟩⟩
  · obtain ⟨m, rfl, hm⟩ := readRm_eq_some_of_mem hmod h
    have hlt := mod_lt_three hmod
    have hrm : bits modrm 0 3 < 8 := bits_lt modrm 0 3
    obtain ⟨tail, htail, m', rest', hm', hstands⟩ := readMem_standIn (check := check) hlt (bs := []) hm
    simp only [and_true] at htail
    obtain ⟨hmod', -, hrm'⟩ := bits_fieldByte (hi := bits modrm 6 2) (mid := 0) (by omega) (by decide) hrm
    refine ⟨fieldByte (bits modrm 6 2) 0 (bits modrm 0 3), tail, ?_, hmod', fun reg' => ⟨_, rest', ?_, .mem hstands⟩⟩
    · refine List.mem_cons_of_mem _ (List.mem_flatMap.2 ⟨bits modrm 6 2, ?_, List.mem_flatMap.2
        ⟨bits modrm 0 3, List.mem_range.2 hrm, List.mem_map.2 ⟨tail, htail, rfl⟩⟩⟩)
      interval_cases bits modrm 6 2 <;> decide
    · exact readRm_of_mem (by rwa [hmod']) (by rwa [hmod', hrm'])

end ModRM

end Sys2Proof.Laws
end

section
/-! O18. The form that stands in for another one: R21 and R44 refuse it only where they refuse the other. -/

namespace Sys2Proof

open Machine

/-- The verdict on bytes is the form `i`, or that they raise #UD and are `i` apart from `extra` bytes. -/
def Decoded.Answers (d : Decoded) (i : Instr) (extra : Nat) : Prop :=
  (extra = 0 ∧ ∃ rest, d = .instr i rest) ∨ d = .ud i extra

/-- The form `i'` after `extra'` bytes can stand in for `i` after `extra`, at pc: it is no longer, and R44 refuses it only where
it refuses `i`. -/
structure Machine.State.StandsFor (s : State) (i' : Instr) (extra' : Nat) (i : Instr) (extra : Nat) : Prop where
  len_le : i'.len + extra' ≤ i.len + extra
  aligned : alignmentRefused i'.formClass (i'.access (s.advance extra')) s = true →
    alignmentRefused i.formClass (i.access (s.advance extra)) s = true

/-- Where the byte `next` is missing, one of the listed completions is answered with a form that can stand in for `i` after
`extra` bytes. -/
def Machine.State.HasStandIn (s : State) (next : Missing) (verdict : List Byte → Decoded) (i : Instr) (extra : Nat) : Prop :=
  ∃ tail ∈ completionTails s.acChecking next, ∃ i' extra', (verdict tail).Answers i' extra' ∧ s.StandsFor i' extra' i extra

end Sys2Proof

namespace Sys2Proof.Laws

open Machine

/-! ### Verdicts -/

theorem answers_answer {ud : Bool} {i j : Instr} {n extra : Nat} {rest : List Byte} :
    (answer ud i n rest).Answers j extra ↔ j = i ∧ extra = if ud then n else 0 := by
  cases ud with
  | false => simp [answer, Decoded.Answers, eq_comm, and_comm]
  | true => simp [answer, Decoded.Answers, eq_comm]

/-- Bytes that can raise #UD do so after as many bytes as there are that do not belong to them. -/
theorem answers_answer_ne_zero {ud : Bool} {i j : Instr} {n extra : Nat} {rest : List Byte} :
    (answer (n != 0 || ud) i n rest).Answers j extra ↔ j = i ∧ extra = n := by
  rw [answers_answer]
  rcases n with _ | n
  · cases ud <;> simp
  · simp

theorem accepted_of_answers {d : Decoded} {i : Instr} {extra : Nat} (h : d.Answers i extra) : d.accepted = true := by
  rcases h with ⟨-, rest, rfl⟩ | rfl <;> rfl

theorem exists_answers {d : Decoded} (h : d.accepted = true) : ∃ i extra, d.Answers i extra := by
  cases d with
  | instr i rest => exact ⟨i, 0, .inl ⟨rfl, rest, rfl⟩⟩
  | ud i extra => exact ⟨i, extra, .inr rfl⟩
  | refuse r => cases h
  | more next => cases h

/-- The limit of 15 bytes leaves verdicts on no more as they are (R78). -/
theorem limited_answers {d : Decoded} {n : Nat} {i : Instr} {extra : Nat} (hlen : i.len + extra ≤ 15) :
    (d.limited n).Answers i extra ↔ d.Answers i extra := by
  simp only [Decoded.Answers, limited_eq_instr, limited_eq_ud, hlen, and_true]

theorem answers_len_le {n : Nat} {d : Decoded} {i : Instr} {extra : Nat} (h : (d.limited n).Answers i extra) :
    i.len + extra ≤ 15 := by
  rcases h with ⟨rfl, -⟩ | h
  · exact (instr_len_bounds i).2.trans (by decide)
  · exact (limited_eq_ud.1 h).2

/-! ### Alignment (R44) -/

variable {s : State}

/-- An address that is the same in its low six bits is misaligned for the same sizes up to 64. -/
theorem misaligned_of_standsFor {m' m : MemOp} (h : m'.StandsFor true m) {bytes : Nat} (hbytes : bytes ∣ 2 ^ 6) (t : State)
    (a32 : Bool) (n len : Nat) : (t.memAccess a32 n len bytes m').misaligned = (t.memAccess a32 n len bytes m).misaligned := by
  have hsize : 6 ≤ t.addrSize a32 := by
    unfold State.addrSize
    split <;> decide
  have hlow : ∀ m, (t.effectiveAddress a32 n (t.nextPc len) m).toNat % bytes
      = ((t.rawAddress (t.addrSize a32) n (t.nextPc len) m).setWidth 6).toNat % bytes := fun m => by
    rw [State.effectiveAddress, ← Nat.mod_mod_of_dvd _ hbytes, ← BitVec.toNat_setWidth,
      BitVec.setWidth_setWidth_of_le _ (by decide), BitVec.setWidth_setWidth_of_le _ hsize]
  simp only [Access.misaligned, State.memAccess, hlow, h.address rfl]

theorem alignmentRefused_iff {c : FormClass} {acc : Option Access} :
    alignmentRefused c acc s = true ↔ c.alignRule = .refuse ∧ s.acChecking = true ∧ acc.any (fun a => a.misaligned) = true := by
  simp [alignmentRefused, and_assoc]

theorem alignmentRefused_none (c : FormClass) : alignmentRefused c none s = false := by simp [alignmentRefused]

/-- R44 refuses an operand in memory only where it refuses every one that it can stand in for. -/
theorem alignmentRefused_memAccess {c : FormClass} {m' m : MemOp} (h : m'.StandsFor s.acChecking m) {len' len : Nat}
    (hlen : m'.len = m.len → len' = len) {bytes : Nat} (hbytes : bytes ∣ 2 ^ 6) {t : State} {a32 : Bool} {n : Nat}
    (hrefused : alignmentRefused c (some (t.memAccess a32 n len' bytes m')) s = true) :
    alignmentRefused c (some (t.memAccess a32 n len bytes m)) s = true := by
  obtain ⟨hrule, hcheck, hmis⟩ := alignmentRefused_iff.1 hrefused
  rw [hcheck] at h
  rw [hlen (h.len_eq rfl), Option.any_some, misaligned_of_standsFor h hbytes] at hmis
  exact alignmentRefused_iff.2 ⟨hrule, hcheck, hmis⟩

/-! ### Operands that stand in for each other -/

theorem rm_len_le_of_standsFor {check : Bool} {n : Nat} {src' src : Rm n} (h : src'.StandsFor check src) : src'.len ≤ src.len := by
  cases h with
  | reg => exact le_rfl
  | mem h => exact h.len_le

theorem vecLen_bytes_dvd (vl : VecLen) : vl.bits / 8 ∣ 2 ^ 6 := by cases vl <;> decide

theorem alignmentRefused_vexAccess {c : FormClass} {src' src : Rm 16} (h : src'.StandsFor s.acChecking src) (vl : VecLen)
    (p : VexPrefix) (t : State) (hrefused : alignmentRefused c (vexAccess vl p src' t) s = true) :
    alignmentRefused c (vexAccess vl p src t) s = true := by
  cases h with
  | reg => exact hrefused
  | mem h =>
    exact alignmentRefused_memAccess h (congrArg (p.addr32.toNat + p.three.toNat + 4 + ·)) (vecLen_bytes_dvd vl) hrefused

theorem alignmentRefused_evexAccess {c : FormClass} {src' src : Rm 32} (h : src'.StandsFor s.acChecking src) (vl : VecLen)
    (a32 : Bool) (t : State) (hrefused : alignmentRefused c (evexAccess vl a32 src' t) s = true) :
    alignmentRefused c (evexAccess vl a32 src t) s = true := by
  cases h with
  | reg => exact hrefused
  | mem h => exact alignmentRefused_memAccess h (congrArg (evexLen a32)) (vecLen_bytes_dvd vl) hrefused

theorem alignmentRefused_evexDAccess {c : FormClass} {src' src : Rm 32} (h : src'.StandsFor s.acChecking src) (vl : VecLen)
    (a32 b : Bool) (t : State) (hrefused : alignmentRefused c (evexDAccess vl a32 (broadcastRm b src') t) s = true) :
    alignmentRefused c (evexDAccess vl a32 (broadcastRm b src) t) s = true := by
  cases h with
  | reg => exact hrefused
  | mem h =>
    cases b with
    | false => exact alignmentRefused_memAccess h (congrArg (evexLen a32)) (vecLen_bytes_dvd vl) hrefused
    | true => exact alignmentRefused_memAccess h (congrArg (evexLen a32)) (by decide) hrefused

/-! ### Forms that stand in for each other -/

section Forms

variable {e e' : Elem} {extra extra' : Nat}

/-- R44 refuses no form with a register operand, and no legacy one: such a form stands in for every one that is as long. -/
theorem standsFor_of_len_le {i' i : Instr} (hlen : i'.len + extra' ≤ i.len + extra)
    (h : i'.isLegacy = true ∨ i'.access (s.advance extra') = none) : s.StandsFor i' extra' i extra where
  len_le := hlen
  aligned hrefused := by
    rcases h with hlegacy | haccess
    · rw [alignmentRefused_of_legacy (isLegacy_iff.1 hlegacy)] at hrefused
      cases hrefused
    · rw [haccess, alignmentRefused_none] at hrefused
      cases hrefused

theorem standsFor_mmInstr {p : LegacyPrefix} {dst' dst : Fin 8} {src' src : Rm 8} {check : Bool}
    (h : src'.StandsFor check src) : s.StandsFor (mmInstr e p dst' src') extra (mmInstr e p dst src) extra := by
  have hlen := rm_len_le_of_standsFor h
  refine standsFor_of_len_le ?_ (.inl (mmInstr_isLegacy ..))
  rw [mmInstr_len, mmInstr_len, mmLen, mmLen]
  omega

theorem standsFor_xmmInstr {p : LegacyPrefix} {dst' dst : Fin 16} {src' src : Rm 16} {check : Bool}
    (h : src'.StandsFor check src) : s.StandsFor (xmmInstr e p dst' src') extra (xmmInstr e p dst src) extra := by
  have hlen := rm_len_le_of_standsFor h
  refine standsFor_of_len_le ?_ (.inl (xmmInstr_isLegacy ..))
  rw [xmmInstr_len, xmmInstr_len, xmmLen, xmmLen]
  omega

theorem standsFor_vexInstr {l : Nat} {p : VexPrefix} {dst' dst src1 : Fin 16} {src' src : Rm 16}
    (h : src'.StandsFor s.acChecking src) :
    s.StandsFor (vexInstr e l p dst' src1 src') extra (vexInstr e l p dst src1 src) extra where
  len_le := by
    have hlen := rm_len_le_of_standsFor h
    rw [vexInstr_len, vexInstr_len, vexLen, vexLen]
    omega
  aligned := by cases e <;> cases l <;> exact alignmentRefused_vexAccess h _ p _

theorem standsFor_evexInstr {a32 : Bool} {p1 p2 modrm' modrm : Byte} {src' src : Rm 32}
    (h : src'.StandsFor s.acChecking src) :
    s.StandsFor (evexInstr a32 p1 p2 modrm' e src') extra (evexInstr a32 p1 p2 modrm e src) extra where
  len_le := by
    have hlen := rm_len_le_of_standsFor h
    rw [evexInstr_eq, evexInstr_eq, evexForm_len, evexForm_len, evexLen, evexLen]
    omega
  aligned := by
    rw [evexInstr_eq, evexInstr_eq]
    generalize bits p2 5 2 = ll
    cases e with
    | byte => rcases ll with _ | _ | ll <;> exact alignmentRefused_evexAccess h _ a32 _
    | word => rcases ll with _ | _ | ll <;> exact alignmentRefused_evexAccess h _ a32 _
    | dword => rcases ll with _ | _ | ll <;> exact alignmentRefused_evexDAccess h _ a32 _ _

/-- A VEX form with a register operand stands in for every one with as many prefix bytes. -/
theorem standsFor_vexInstr_reg {l' l : Nat} {p : VexPrefix} {dst' src1' dst src1 r : Fin 16} {src : Rm 16} :
    s.StandsFor (vexInstr e' l' p dst' src1' (.reg r)) extra (vexInstr e l p dst src1 src) extra := by
  refine standsFor_of_len_le ?_ (.inr ?_)
  · rw [vexInstr_len, vexInstr_len, vexLen, vexLen, Rm.len]
    omega
  · cases e' <;> cases l' <;> rfl

/-- An EVEX form with a register operand stands in for every one. -/
theorem standsFor_evexInstr_reg {a32 : Bool} {p1' p2' p1 p2 modrm' modrm : Byte} {r : Fin 32} {src : Rm 32} :
    s.StandsFor (evexInstr a32 p1' p2' modrm' e' (.reg r)) extra (evexInstr a32 p1 p2 modrm e src) extra := by
  rw [evexInstr_eq, evexInstr_eq]
  refine standsFor_of_len_le ?_ (.inr ?_)
  · rw [evexForm_len, evexForm_len, evexLen, evexLen, Rm.len]
    omega
  · generalize bits p2' 5 2 = ll
    cases e' <;> rcases ll with _ | _ | ll <;> rfl

end Forms

end Sys2Proof.Laws
end

section
/-! O18. Bytes that end early, shape by shape: whatever form they go on to, a listed completion can stand in for it. -/

namespace Sys2Proof.Laws

open Machine

variable {mode64 : Bool} {P : List Byte} {rex : Option Byte} {s : State} {i : Instr} {extra : Nat} {next : Missing}

theorem eq_missing_of_moreUnless {missing : Missing} {l : List (Bool × DecodeRefusal)} (h : moreUnless missing l = .more next) :
    next = missing := by
  cases (orRefused_eq_more.1 h).2
  rfl

theorem mem_opcodeTails_74_C0 : [Elem.opcode .byte, 0xC0] ∈ opcodeTails := by decide

theorem readRm_C0 {n : Nat} [NeZero n] (reg x b : Nat) (bs : List Byte) :
    readRm n 0xC0 reg x b bs = some (.reg (Fin.ofNat n reg), bs) :=
  readRm_of_register (by decide) bs

/-! ### VEX (R69, R70) -/

section Vex

variable {f : VexFields}

theorem answers_of_decodeVex_read {e : Elem} {modrm : Byte} {bs rest : List Byte} {src2 : Rm 16}
    (hnone : firstRefusal (vexRefusals mode64 P f) = none)
    (hread : readRm 16 modrm (8 * f.b + bits modrm 0 3) f.x f.b bs = some (src2, rest)) :
    (decodeVex mode64 P rex f (e.opcode :: modrm :: bs)).Answers i extra ↔
      i = vexInstr e f.l ⟨P.contains 0x67, f.three⟩ (Fin.ofNat 16 (8 * f.r + bits modrm 3 3)) (Fin.ofNat 16 f.vvvv) src2
        ∧ extra = strayPrefixes P rex := by
  rw [decodeVex_of_read e hread, orRefused_of_none hnone, ← Bool.or_false (strayPrefixes P rex != 0)]
  exact answers_answer_ne_zero

/-- After a VEX prefix that nothing refuses, the opcode 74 with a register operand stands in for every form with as many prefix
bytes. -/
theorem decodeVex_register_standsFor {f' : VexFields} {bs : List Byte} (h : (decodeVex mode64 P rex f bs).Answers i extra)
    (hthree : f'.three = f.three) (hnone : firstRefusal (vexRefusals mode64 P f') = none) :
    ∃ i' extra', (decodeVex mode64 P rex f' [Elem.opcode .byte, 0xC0]).Answers i' extra' ∧ s.StandsFor i' extra' i extra := by
  obtain ⟨hf, e, modrm, code, src2, rest, rfl, hread⟩ := decodeVex_accepted (accepted_of_answers h)
  obtain ⟨rfl, rfl⟩ := (answers_of_decodeVex_read hf hread).1 h
  refine ⟨_, _, (answers_of_decodeVex_read hnone (readRm_C0 ..)).2 ⟨rfl, rfl⟩, ?_⟩
  rw [hthree]
  exact standsFor_vexInstr_reg

theorem decodeVex_hasStandIn {bs u : List Byte} (h : decodeVex mode64 P rex f bs = .more next)
    (hu : (decodeVex mode64 P rex f (bs ++ u)).Answers i extra) :
    s.HasStandIn next (fun tail => decodeVex mode64 P rex f (bs ++ tail)) i extra := by
  obtain ⟨hnone, e, modrm, code, src2, rest, hbytes, hread⟩ := decodeVex_accepted (accepted_of_answers hu)
  match bs with
  | [] =>
    cases eq_missing_of_moreUnless h
    obtain ⟨i', extra', hanswers, hstands⟩ := decodeVex_register_standsFor hu rfl hnone
    exact ⟨_, mem_opcodeTails_74_C0, i', extra', hanswers, hstands⟩
  | [op] =>
    obtain ⟨rfl, rfl⟩ := List.cons.inj hbytes
    rw [decodeVex_opcode, orRefused_of_none hnone] at h
    cases h
    obtain ⟨rfl, rfl⟩ := (answers_of_decodeVex_read hnone hread).1 hu
    obtain ⟨modrm', tail, hmem, -, hstandIn⟩ := modrm_standIn s.acChecking hread
    obtain ⟨src', rest', hread', hsrc⟩ := hstandIn (8 * f.b + bits modrm' 0 3)
    exact ⟨_, hmem, _, _, (answers_of_decodeVex_read hnone hread').2 ⟨rfl, rfl⟩, standsFor_vexInstr hsrc⟩
  | op :: m :: bs =>
    simp only [List.cons_append, List.cons.injEq] at hbytes
    obtain ⟨rfl, rfl, rfl⟩ := hbytes
    obtain ⟨rfl, rfl⟩ := (answers_of_decodeVex_read hnone hread).1 hu
    cases hshort : readRm 16 m (8 * f.b + bits m 0 3) f.x f.b bs with
    | some r => exact absurd h (not_more_of_accepted (accepted_decodeVex e hnone (src2 := r.1) (rest := r.2) hshort))
    | none =>
      rw [decodeVex_short e hshort, orRefused_of_none hnone] at h
      cases eq_missing_of_moreUnless h
      obtain ⟨tail, hmem, src', rest', hread', hsrc⟩ := readRm_standIn s.acChecking hshort hread
      exact ⟨tail, hmem, _, _, (answers_of_decodeVex_read hnone hread').2 ⟨rfl, rfl⟩, standsFor_vexInstr hsrc⟩

end Vex

/-! ### EVEX (R71 to R73) -/

section Evex

variable {p0 p1 p2 : Byte}

theorem answers_of_decodeEvex_read {e : Elem} {modrm : Byte} {bs rest : List Byte} {src2 : Rm 32}
    (hnone : firstRefusal (evexRefusals mode64 P p0 p1 p2 (evexRound e p2 modrm)) = none)
    (hread : readRm 32 modrm (16 * barred p0 6 1 + 8 * barred p0 5 1 + bits modrm 0 3) (barred p0 6 1) (barred p0 5 1) bs
      = some (src2, rest)) :
    (decodeEvex mode64 P rex p0 p1 p2 (e.opcode :: modrm :: bs)).Answers i extra ↔
      i = evexInstr (P.contains 0x67) p1 p2 modrm e src2 ∧ extra = strayPrefixes P rex := by
  rw [decodeEvex_of_read e hread, orRefused_of_none hnone]
  exact answers_answer_ne_zero

/-- After EVEX prefix bytes that nothing refuses, the opcode 74 with a register operand stands in for every EVEX form. -/
theorem decodeEvex_register_standsFor {q0 q1 q2 : Byte} {bs : List Byte}
    (h : (decodeEvex mode64 P rex p0 p1 p2 bs).Answers i extra)
    (hnone : firstRefusal (evexRefusals mode64 P q0 q1 q2 false) = none) :
    ∃ i' extra', (decodeEvex mode64 P rex q0 q1 q2 [Elem.opcode .byte, 0xC0]).Answers i' extra'
      ∧ s.StandsFor i' extra' i extra := by
  obtain ⟨e, modrm, code, src2, rest, rfl, hp, hread⟩ := decodeEvex_accepted (accepted_of_answers h)
  obtain ⟨rfl, rfl⟩ := (answers_of_decodeEvex_read hp hread).1 h
  exact ⟨_, _, (answers_of_decodeEvex_read (e := .byte) hnone (readRm_C0 ..)).2 ⟨rfl, rfl⟩, standsFor_evexInstr_reg⟩

theorem evexRound_congr {e : Elem} {m' m : Byte} (h : bits m' 6 2 = bits m 6 2) : evexRound e p2 m' = evexRound e p2 m := by
  rw [evexRound, h, evexRound]

theorem decodeEvex_hasStandIn {bs u : List Byte} (h : decodeEvex mode64 P rex p0 p1 p2 bs = .more next)
    (hu : (decodeEvex mode64 P rex p0 p1 p2 (bs ++ u)).Answers i extra) :
    s.HasStandIn next (fun tail => decodeEvex mode64 P rex p0 p1 p2 (bs ++ tail)) i extra := by
  obtain ⟨e, modrm, code, src2, rest, hbytes, hnone, hread⟩ := decodeEvex_accepted (accepted_of_answers hu)
  match bs with
  | [] =>
    cases eq_missing_of_moreUnless h
    obtain ⟨i', extra', hanswers, hstands⟩ := decodeEvex_register_standsFor hu (evexRefusals_no_round hnone)
    exact ⟨_, mem_opcodeTails_74_C0, i', extra', hanswers, hstands⟩
  | [op] =>
    obtain ⟨rfl, rfl⟩ := List.cons.inj hbytes
    rw [decodeEvex_opcode, orRefused_of_none (evexRefusals_no_round hnone)] at h
    cases h
    obtain ⟨rfl, rfl⟩ := (answers_of_decodeEvex_read hnone hread).1 hu
    obtain ⟨modrm', tail, hmem, hmod, hstandIn⟩ := modrm_standIn s.acChecking hread
    obtain ⟨src', rest', hread', hsrc⟩ := hstandIn (16 * barred p0 6 1 + 8 * barred p0 5 1 + bits modrm' 0 3)
    rw [← evexRound_congr hmod] at hnone
    exact ⟨_, hmem, _, _, (answers_of_decodeEvex_read hnone hread').2 ⟨rfl, rfl⟩, standsFor_evexInstr hsrc⟩
  | op :: m :: bs =>
    simp only [List.cons_append, List.cons.injEq] at hbytes
    obtain ⟨rfl, rfl, rfl⟩ := hbytes
    obtain ⟨rfl, rfl⟩ := (answers_of_decodeEvex_read hnone hread).1 hu
    cases hshort : readRm 32 m (16 * barred p0 6 1 + 8 * barred p0 5 1 + bits m 0 3) (barred p0 6 1) (barred p0 5 1) bs with
    | some r => exact absurd h (not_more_of_accepted (accepted_decodeEvex e hnone (src2 := r.1) (rest := r.2) hshort))
    | none =>
      rw [decodeEvex_short e hshort, orRefused_of_none hnone] at h
      cases eq_missing_of_moreUnless h
      obtain ⟨tail, hmem, src', rest', hread', hsrc⟩ := readRm_standIn s.acChecking hshort hread
      exact ⟨tail, hmem, _, _, (answers_of_decodeEvex_read hnone hread').2 ⟨rfl, rfl⟩, standsFor_evexInstr hsrc⟩

end Evex

/-! ### Legacy (R68) -/

section Operands

variable {isRex : Bool} {rexBits modrm : Byte} {e : Elem}

theorem answers_of_xmm_read {bs rest : List Byte} {src : Rm 16} (h66 : P.contains 0x66 = true)
    (hread : readRm 16 modrm (8 * bits rexBits 0 1 + bits modrm 0 3) (bits rexBits 1 1) (bits rexBits 0 1) bs
      = some (src, rest)) :
    (decodeLegacyOperands P isRex rexBits e modrm bs).Answers i extra ↔
      i = xmmInstr e ⟨P.contains 0x67, isRex⟩ (Fin.ofNat 16 (8 * bits rexBits 2 1 + bits modrm 3 3)) src
        ∧ extra = if P.contains 0xF0 then 1 else 0 := by
  rw [decodeLegacyOperands_xmm e h66 hread, answers_answer]

theorem answers_of_mm_read {bs rest : List Byte} {src : Rm 8} (h66 : P.contains 0x66 = false)
    (hreg : ¬ (bits modrm 6 2 = 3 ∧ bits rexBits 0 1 = 1))
    (hread : readRm 8 modrm (bits modrm 0 3) (bits rexBits 1 1) (bits rexBits 0 1) bs = some (src, rest)) :
    (decodeLegacyOperands P isRex rexBits e modrm bs).Answers i extra ↔
      i = mmInstr e ⟨P.contains 0x67, isRex⟩ (Fin.ofNat 8 (bits modrm 3 3)) src
        ∧ extra = if P.contains 0xF0 then 1 else 0 := by
  rw [decodeLegacyOperands_mm e h66 hreg hread, answers_answer]

/-- ModRM and what follows it, where all of it is missing. -/
theorem decodeLegacyOperands_modrm_standIn {u : List Byte}
    (hu : (decodeLegacyOperands P isRex rexBits e modrm u).Answers i extra) :
    ∃ modrm' tail, modrm' :: tail ∈ modrmTails s.acChecking ∧ ∃ i' extra',
      (decodeLegacyOperands P isRex rexBits e modrm' tail).Answers i' extra' ∧ s.StandsFor i' extra' i extra := by
  rcases decodeLegacyOperands_accepted (accepted_of_answers hu) with ⟨h66, src, rest, hread⟩ | ⟨h66, hreg, src, rest, hread⟩
  · obtain ⟨rfl, rfl⟩ := (answers_of_xmm_read h66 hread).1 hu
    obtain ⟨modrm', tail, hmem, -, hstandIn⟩ := modrm_standIn s.acChecking hread
    obtain ⟨src', rest', hread', hsrc⟩ := hstandIn (8 * bits rexBits 0 1 + bits modrm' 0 3)
    exact ⟨modrm', tail, hmem, _, _, (answers_of_xmm_read h66 hread').2 ⟨rfl, rfl⟩, standsFor_xmmInstr hsrc⟩
  · obtain ⟨rfl, rfl⟩ := (answers_of_mm_read h66 hreg hread).1 hu
    obtain ⟨modrm', tail, hmem, hmod, hstandIn⟩ := modrm_standIn s.acChecking hread
    obtain ⟨src', rest', hread', hsrc⟩ := hstandIn (bits modrm' 0 3)
    rw [← hmod] at hreg
    exact ⟨modrm', tail, hmem, _, _, (answers_of_mm_read h66 hreg hread').2 ⟨rfl, rfl⟩, standsFor_mmInstr hsrc⟩

theorem decodeLegacyOperands_hasStandIn {bs u : List Byte}
    (h : decodeLegacyOperands P isRex rexBits e modrm bs = .more next)
    (hu : (decodeLegacyOperands P isRex rexBits e modrm (bs ++ u)).Answers i extra) :
    s.HasStandIn next (fun tail => decodeLegacyOperands P isRex rexBits e modrm (bs ++ tail)) i extra := by
  rcases decodeLegacyOperands_accepted (accepted_of_answers hu) with ⟨h66, src, rest, hread⟩ | ⟨h66, hreg, src, rest, hread⟩
  · obtain ⟨rfl, rfl⟩ := (answers_of_xmm_read h66 hread).1 hu
    cases hshort : readRm 16 modrm (8 * bits rexBits 0 1 + bits modrm 0 3) (bits rexBits 1 1) (bits rexBits 0 1) bs with
    | some r =>
      rw [decodeLegacyOperands_xmm e h66 (src := r.1) (rest := r.2) hshort] at h
      exact absurd h (not_more_of_accepted (accepted_answer ..))
    | none =>
      simp only [decodeLegacyOperands, h66, hshort, if_true, Decoded.more.injEq] at h
      subst h
      obtain ⟨tail, hmem, src', rest', hread', hsrc⟩ := readRm_standIn s.acChecking hshort hread
      exact ⟨tail, hmem, _, _, (answers_of_xmm_read h66 hread').2 ⟨rfl, rfl⟩, standsFor_xmmInstr hsrc⟩
  · obtain ⟨rfl, rfl⟩ := (answers_of_mm_read h66 hreg hread).1 hu
    cases hshort : readRm 8 modrm (bits modrm 0 3) (bits rexBits 1 1) (bits rexBits 0 1) bs with
    | some r =>
      rw [decodeLegacyOperands_mm e h66 hreg (src := r.1) (rest := r.2) hshort] at h
      exact absurd h (not_more_of_accepted (accepted_answer ..))
    | none =>
      simp only [decodeLegacyOperands, h66, if_neg hreg, hshort, Bool.false_eq_true, if_false, Decoded.more.injEq] at h
      subst h
      obtain ⟨tail, hmem, src', rest', hread', hsrc⟩ := readRm_standIn s.acChecking hshort hread
      exact ⟨tail, hmem, _, _, (answers_of_mm_read h66 hreg hread').2 ⟨rfl, rfl⟩, standsFor_mmInstr hsrc⟩

/-- One of the ModRM bytes C0, a register, and 00, an address without a displacement, is admitted after every opcode: REX.B
refuses the first of an MMX form only. -/
theorem decodeLegacyOperands_accepts_one : ∃ modrm ∈ [(0xC0 : Byte), 0x00],
    (decodeLegacyOperands P isRex rexBits e modrm []).accepted = true := by
  cases h66 : P.contains 0x66 with
  | true => exact ⟨0xC0, by simp, by rw [decodeLegacyOperands_xmm e h66 (readRm_C0 ..), accepted_answer]⟩
  | false => exact ⟨0x00, by simp, accepted_decodeLegacyOperands_zero⟩

end Operands

/-- The form of a legacy shape is a legacy form. -/
theorem isLegacy_of_decodeLegacy {bs : List Byte} (h : (decodeLegacy mode64 P rex bs).Answers i extra) : i.isLegacy = true := by
  obtain ⟨hnone, e, modrm, code, rfl, hoperands⟩ := decodeLegacy_accepted (accepted_of_answers h)
  rw [decodeLegacy_modrm, orRefused_of_none hnone] at h
  rcases decodeLegacyOperands_accepted hoperands with ⟨h66, src, rest, hread⟩ | ⟨h66, hreg, src, rest, hread⟩
  · obtain ⟨rfl, -⟩ := (answers_of_xmm_read h66 hread).1 h
    exact xmmInstr_isLegacy ..
  · obtain ⟨rfl, -⟩ := (answers_of_mm_read h66 hreg hread).1 h
    exact mmInstr_isLegacy ..

/-- A legacy opcode and what of its operand there is. -/
theorem decodeLegacy_hasStandIn {op : Byte} {bs u : List Byte} (h : decodeLegacy mode64 P rex (op :: bs) = .more next)
    (hu : (decodeLegacy mode64 P rex (op :: bs ++ u)).Answers i extra) :
    s.HasStandIn next (fun tail => decodeLegacy mode64 P rex (op :: bs ++ tail)) i extra := by
  obtain ⟨hnone, e, modrm, code, hbytes, -⟩ := decodeLegacy_accepted (accepted_of_answers hu)
  have hoperands : ∀ modrm bs, decodeLegacy mode64 P rex (e.opcode :: modrm :: bs)
      = decodeLegacyOperands P rex.isSome (rex.getD 0) e modrm bs := fun modrm bs => by
    rw [decodeLegacy_modrm, orRefused_of_none hnone]
  match bs with
  | [] =>
    obtain ⟨rfl, rfl⟩ := List.cons.inj hbytes
    rw [decodeLegacy_opcode, orRefused_of_none hnone] at h
    cases h
    rw [List.cons_append, List.nil_append, hoperands] at hu
    obtain ⟨modrm', tail, hmem, i', extra', hanswers, hstands⟩ := decodeLegacyOperands_modrm_standIn hu
    rw [← hoperands] at hanswers
    exact ⟨modrm' :: tail, hmem, i', extra', hanswers, hstands⟩
  | m :: bs =>
    simp only [List.cons_append, List.cons.injEq] at hbytes
    obtain ⟨rfl, rfl, rfl⟩ := hbytes
    rw [hoperands] at h
    rw [List.cons_append, List.cons_append, hoperands] at hu
    simpa only [List.cons_append, hoperands] using decodeLegacyOperands_hasStandIn h hu

/-! ### The least bytes that a form has -/

/-- The bytes of the form that a shape answers, with those that are not its own. -/
theorem reads_of_answers {bs : List Byte} (hsplits : Splits mode64 P rex bs)
    (h : (decodeShape mode64 P rex bs).Answers i extra) :
    ∃ code rest ud, bs = code ++ rest ∧ Reads mode64 P rex code i ud
      ∧ i.len + extra = P.length + rex.isSome.toNat + code.length := by
  obtain ⟨code, rest, j, ud, rfl, hshape, hadmits⟩ := shape_of_accepted hsplits.rexByte (accepted_of_answers h)
  rw [decodeShape_of_shape hshape hadmits, answers_answer_ne_zero] at h
  obtain ⟨rfl, rfl⟩ := h
  have hreads : Reads mode64 P rex code i ud := ⟨hsplits.prefixes, hsplits.rexByte, hshape, hadmits⟩
  refine ⟨code, rest, ud, rfl, hreads, ?_⟩
  rw [← length_of_reads hreads, List.length_append, List.length_append, length_toList]

/-- The form of a shape and what is before it are no longer than the bytes that there are. -/
theorem len_le_of_answers {bs : List Byte} (hsplits : Splits mode64 P rex bs)
    (h : (decodeShape mode64 P rex bs).Answers i extra) :
    i.len + extra ≤ P.length + rex.isSome.toNat + bs.length := by
  obtain ⟨code, rest, ud, rfl, -, hlen⟩ := reads_of_answers hsplits h
  rw [hlen, List.length_append]
  omega

theorem legacyRefusals_of_accepted {bs : List Byte} (h : (decodeShape mode64 P rex (0x0F :: bs)).accepted = true) :
    firstRefusal (legacyRefusals mode64 P (rex.getD 0)) = none := by
  rw [decodeShape_0F] at h
  exact (decodeLegacy_accepted h).1

/-- A form has three bytes after its prefixes and REX at least, where legacy forms are not refused, and four otherwise. -/
theorem le_len_of_answers {bs : List Byte} (hsplits : Splits mode64 P rex bs)
    (h : (decodeShape mode64 P rex bs).Answers i extra) :
    (firstRefusal (legacyRefusals mode64 P (rex.getD 0)) = none ∧ P.length + rex.isSome.toNat + 3 ≤ i.len + extra)
      ∨ (firstRefusal (prefixRefusals mode64 P) = none ∧ P.length + rex.isSome.toNat + 4 ≤ i.len + extra) := by
  have hprefixes := prefixRefusals_of_accepted hsplits.rexByte (accepted_of_answers h)
  obtain ⟨code, rest, ud, rfl, hreads, hlen⟩ := reads_of_answers hsplits h
  rw [hlen]
  cases hreads.shape with
  | mm =>
    refine .inl ⟨legacyRefusals_of_accepted (accepted_of_answers h), ?_⟩
    simp [rm_bytes_length]
  | xmm =>
    refine .inl ⟨legacyRefusals_of_accepted (accepted_of_answers h), ?_⟩
    simp [rm_bytes_length]
  | @vex e l w x b p =>
    refine .inr ⟨hprefixes, ?_⟩
    cases hthree : p.three <;> simp [vexBody, rm_bytes_length]
  | evex =>
    refine .inr ⟨hprefixes, ?_⟩
    simp [evexBody]

theorem splits_of_head {b : Byte} (hb : b ∈ ([0x0F, 0xC5] : List Byte)) (hP : ∀ b ∈ P, isPrefix b = true)
    (hrex : ∀ b ∈ rex, mode64 = true ∧ bits b 4 4 = 4) (bs : List Byte) : Splits mode64 P rex (b :: bs) where
  prefixes := hP
  rexByte := hrex
  head _ c hc := by
    have hheads : ∀ b ∈ ([0x0F, 0xC5] : List Byte), isPrefix b = false ∧ (mode64 && bits b 4 4 == 4) = false := by
      cases mode64 <;> decide
    cases hc
    exact hheads b hb

/-- Where legacy forms are not refused, the least of them stands in for every form with three bytes or more. -/
theorem legacy_standIn (hP : ∀ b ∈ P, isPrefix b = true) (hrex : ∀ b ∈ rex, mode64 = true ∧ bits b 4 4 = 4)
    (hnone : firstRefusal (legacyRefusals mode64 P (rex.getD 0)) = none)
    (hlen : P.length + rex.isSome.toNat + 3 ≤ i.len + extra) :
    ∃ modrm ∈ [(0xC0 : Byte), 0x00], ∃ i' extra',
      (decodeShape mode64 P rex [0x0F, Elem.opcode .byte, modrm]).Answers i' extra' ∧ s.StandsFor i' extra' i extra := by
  obtain ⟨modrm, hmodrm, haccepted⟩ :=
    decodeLegacyOperands_accepts_one (P := P) (isRex := rex.isSome) (rexBits := rex.getD 0) (e := .byte)
  rw [← decodeShape_legacy .byte modrm [] hnone] at haccepted
  obtain ⟨i', extra', hanswers⟩ := exists_answers haccepted
  have hle := len_le_of_answers (splits_of_head (by simp) hP hrex _) hanswers
  refine ⟨modrm, hmodrm, i', extra', hanswers, standsFor_of_len_le (hle.trans hlen) (.inl ?_)⟩
  rw [decodeShape_0F] at hanswers
  exact isLegacy_of_decodeLegacy hanswers

/-- The least VEX form stands in for every form with four bytes or more. -/
theorem vex_standIn (hP : ∀ b ∈ P, isPrefix b = true) (hrex : ∀ b ∈ rex, mode64 = true ∧ bits b 4 4 = 4)
    (hnone : firstRefusal (prefixRefusals mode64 P) = none)
    (hlen : P.length + rex.isSome.toNat + 4 ≤ i.len + extra) :
    ∃ i' extra', (decodeShape mode64 P rex [0xC5, 0xF9, Elem.opcode .byte, 0xC0]).Answers i' extra'
      ∧ s.StandsFor i' extra' i extra := by
  have hopens : opensVex mode64 0xF9 = true := opensVex_eq_true.2 fun _ => by decide
  have hvex : firstRefusal (vexRefusals mode64 P (vexTwo 0xF9)) = none :=
    (vexRefusals_eq_none mode64 P).2 ⟨hnone, by decide, by decide, fun _ => by decide⟩
  have hanswers := (answers_of_decodeVex_read (rex := rex) (e := .byte) hvex (readRm_C0 _ _ _ [])).2 ⟨rfl, rfl⟩
  rw [← decodeShape_vexTwo hopens] at hanswers
  have hle := len_le_of_answers (splits_of_head (by simp) hP hrex _) hanswers
  exact ⟨_, _, hanswers, standsFor_of_len_le (hle.trans hlen) (.inr rfl)⟩

end Sys2Proof.Laws
end

section
/-! O18, O20. From the shapes to the decoder: the listed completions stand in for every form that bytes which end early go on to,
and no such form ends before the first missing byte. -/

namespace Sys2Proof.Laws

open Machine

variable {mode64 : Bool} {P : List Byte} {rex : Option Byte} {s : State} {i : Instr} {extra : Nat} {next : Missing}

/-! ### The bytes of a VEX or EVEX prefix that are accepted (R69, R71) -/

theorem vexTwo_of_accepted {bs : List Byte} (h : (decodeShape mode64 P rex (0xC5 :: bs)).accepted = true) :
    ∃ v0 rest, bs = v0 :: rest ∧ opensVex mode64 v0 = true := by
  match bs with
  | [] => simp [decodeShape, not_accepted_moreUnless] at h
  | v0 :: rest => exact ⟨v0, rest, rfl, opens_of_accepted (.inl rfl) h⟩

theorem vexThree_of_accepted {bs : List Byte} (h : (decodeShape mode64 P rex (0xC4 :: bs)).accepted = true) :
    ∃ v1 v2 rest, bs = v1 :: v2 :: rest ∧ opensVex mode64 v1 = true := by
  match bs with
  | [] => simp [decodeShape, not_accepted_moreUnless] at h
  | [v1] => simp [decodeShape, opens_of_accepted (.inr (.inl rfl)) h, not_accepted_moreUnless] at h
  | v1 :: v2 :: rest => exact ⟨v1, v2, rest, rfl, opens_of_accepted (.inr (.inl rfl)) h⟩

theorem evex_of_accepted {bs : List Byte} (h : (decodeShape mode64 P rex (0x62 :: bs)).accepted = true) :
    ∃ p0 p1 p2 rest, bs = p0 :: p1 :: p2 :: rest ∧ opensVex mode64 p0 = true := by
  match bs with
  | [] => simp [decodeShape, not_accepted_moreUnless] at h
  | [p0] => simp [decodeShape, opens_of_accepted (.inr (.inr rfl)) h, not_accepted_moreUnless] at h
  | [p0, p1] => simp [decodeShape, opens_of_accepted (.inr (.inr rfl)) h, not_accepted_moreUnless] at h
  | p0 :: p1 :: p2 :: rest => exact ⟨p0, p1, p2, rest, rfl, opens_of_accepted (.inr (.inr rfl)) h⟩

/-! ### Each shape, with what of its prefix there is -/

theorem vexTwo_hasStandIn {bs u : List Byte} (h : decodeShape mode64 P rex (0xC5 :: bs) = .more next)
    (hprefixes : firstRefusal (prefixRefusals mode64 P) = none)
    (hu : (decodeShape mode64 P rex (0xC5 :: (bs ++ u))).Answers i extra) :
    s.HasStandIn next (fun tail => decodeShape mode64 P rex (0xC5 :: (bs ++ tail))) i extra := by
  obtain ⟨v0, rest, hbytes, hopens⟩ := vexTwo_of_accepted (accepted_of_answers hu)
  match bs with
  | [] =>
    cases eq_missing_of_moreUnless h
    rw [hbytes, decodeShape_vexTwo hopens] at hu
    obtain ⟨i', extra', hanswers, hstands⟩ := decodeVex_register_standsFor (f' := vexTwo 0xF9) hu rfl
      ((vexRefusals_eq_none mode64 P).2 ⟨hprefixes, by decide, by decide, fun _ => by decide⟩)
    rw [← decodeShape_vexTwo (opensVex_eq_true.2 fun _ => by decide)] at hanswers
    exact ⟨_, (by decide : [0xF9, Elem.opcode .byte, 0xC0] ∈ opcodeTails), i', extra', hanswers, hstands⟩
  | b :: bs =>
    obtain ⟨rfl, rfl⟩ := List.cons.inj hbytes
    rw [decodeShape_vexTwo hopens] at h
    simp only [List.cons_append, decodeShape_vexTwo hopens] at hu ⊢
    exact decodeVex_hasStandIn h hu

theorem vexThree_hasStandIn {bs u : List Byte} (h : decodeShape mode64 P rex (0xC4 :: bs) = .more next)
    (hu : (decodeShape mode64 P rex (0xC4 :: (bs ++ u))).Answers i extra) :
    s.HasStandIn next (fun tail => decodeShape mode64 P rex (0xC4 :: (bs ++ tail))) i extra := by
  obtain ⟨v1, v2, rest, hbytes, hopens⟩ := vexThree_of_accepted (accepted_of_answers hu)
  have hvex := hu
  rw [hbytes, decodeShape_vexThree hopens] at hvex
  have hnone := (decodeVex_accepted (accepted_of_answers hvex)).1
  match bs with
  | [] =>
    cases eq_missing_of_moreUnless h
    obtain ⟨i', extra', hanswers, hstands⟩ := decodeVex_register_standsFor (f' := vexThree 0xE1 0x79) hvex rfl
      ((vexRefusals_eq_none mode64 P).2
        ⟨((vexRefusals_eq_none mode64 P).1 hnone).1, by decide, by decide, fun _ => by decide⟩)
    rw [← decodeShape_vexThree (opensVex_eq_true.2 fun _ => by decide)] at hanswers
    exact ⟨_, (by decide : [0xE1, 0x79, Elem.opcode .byte, 0xC0] ∈ opcodeTails), i', extra', hanswers, hstands⟩
  | [b] =>
    obtain ⟨rfl, -⟩ := List.cons.inj hbytes
    rw [decodeShape_vexThree_missing hopens] at h
    cases eq_missing_of_moreUnless h
    obtain ⟨i', extra', hanswers, hstands⟩ :=
      decodeVex_register_standsFor (f' := vexThree b 0x79) hvex rfl (vexRefusals_v2 hnone)
    rw [← decodeShape_vexThree hopens] at hanswers
    exact ⟨_, (by decide : [0x79, Elem.opcode .byte, 0xC0] ∈ opcodeTails), i', extra', hanswers, hstands⟩
  | b :: c :: bs =>
    simp only [List.cons_append, List.cons.injEq] at hbytes
    obtain ⟨rfl, rfl, rfl⟩ := hbytes
    rw [decodeShape_vexThree hopens] at h
    simpa only [List.cons_append, decodeShape_vexThree hopens] using decodeVex_hasStandIn h hvex

theorem evex_hasStandIn {bs u : List Byte} (h : decodeShape mode64 P rex (0x62 :: bs) = .more next)
    (hu : (decodeShape mode64 P rex (0x62 :: (bs ++ u))).Answers i extra) :
    s.HasStandIn next (fun tail => decodeShape mode64 P rex (0x62 :: (bs ++ tail))) i extra := by
  obtain ⟨p0, p1, p2, rest, hbytes, hopens⟩ := evex_of_accepted (accepted_of_answers hu)
  have hevex := hu
  rw [hbytes, decodeShape_evex hopens] at hevex
  obtain ⟨_, _, _, _, _, -, hnone, -⟩ := decodeEvex_accepted (accepted_of_answers hevex)
  match bs with
  | [] =>
    cases eq_missing_of_moreUnless h
    obtain ⟨i', extra', hanswers, hstands⟩ := decodeEvex_register_standsFor (q0 := 0xF1) (q1 := 0x7D) (q2 := 0x08) hevex
      ((evexRefusals_eq_none mode64 P).2 ⟨((evexRefusals_eq_none mode64 P).1 hnone).1, by decide, by decide, by decide,
        by decide, rfl, by decide, fun _ => by decide⟩)
    rw [← decodeShape_evex (opensVex_eq_true.2 fun _ => by decide)] at hanswers
    exact ⟨_, (by decide : [0xF1, 0x7D, 0x08, Elem.opcode .byte, 0xC0] ∈ opcodeTails), i', extra', hanswers, hstands⟩
  | [b] =>
    obtain ⟨rfl, -⟩ := List.cons.inj hbytes
    rw [decodeShape_evex_missing_p1 hopens] at h
    cases eq_missing_of_moreUnless h
    obtain ⟨i', extra', hanswers, hstands⟩ := decodeEvex_register_standsFor hevex (evexRefusals_p1 hnone)
    rw [← decodeShape_evex hopens] at hanswers
    exact ⟨_, (by decide : [0x7D, 0x08, Elem.opcode .byte, 0xC0] ∈ opcodeTails), i', extra', hanswers, hstands⟩
  | [b, c] =>
    simp only [List.cons_append, List.nil_append, List.cons.injEq] at hbytes
    obtain ⟨rfl, rfl, -⟩ := hbytes
    rw [decodeShape_evex_missing_p2 hopens] at h
    cases eq_missing_of_moreUnless h
    obtain ⟨i', extra', hanswers, hstands⟩ := decodeEvex_register_standsFor hevex (evexRefusals_p2 hnone)
    rw [← decodeShape_evex hopens] at hanswers
    exact ⟨_, (by decide : [0x08, Elem.opcode .byte, 0xC0] ∈ opcodeTails), i', extra', hanswers, hstands⟩
  | b :: c :: d :: bs =>
    simp only [List.cons_append, List.cons.injEq] at hbytes
    obtain ⟨rfl, rfl, rfl, rfl⟩ := hbytes
    rw [decodeShape_evex hopens] at h
    simpa only [List.cons_append, decodeShape_evex hopens] using decodeEvex_hasStandIn h hevex

theorem legacy_hasStandIn {bs u : List Byte} (hsplits : Splits mode64 P rex (0x0F :: (bs ++ u)))
    (h : decodeShape mode64 P rex (0x0F :: bs) = .more next)
    (hu : (decodeShape mode64 P rex (0x0F :: (bs ++ u))).Answers i extra) :
    s.HasStandIn next (fun tail => decodeShape mode64 P rex (0x0F :: (bs ++ tail))) i extra := by
  match bs with
  | [] =>
    cases eq_missing_of_moreUnless h
    have hlen : P.length + rex.isSome.toNat + 3 ≤ i.len + extra := by
      rcases le_len_of_answers hsplits hu with ⟨-, hlen⟩ | ⟨-, hlen⟩ <;> omega
    obtain ⟨modrm, hmodrm, i', extra', hanswers, hstands⟩ :=
      legacy_standIn hsplits.prefixes hsplits.rexByte (legacyRefusals_of_accepted (accepted_of_answers hu)) hlen
    have hlisted : ∀ modrm ∈ [(0xC0 : Byte), 0x00], [Elem.opcode .byte, modrm] ∈ opcodeTails := by decide
    exact ⟨_, hlisted modrm hmodrm, i', extra', hanswers, hstands⟩
  | op :: bs => exact decodeLegacy_hasStandIn h hu

/-- Bytes from the first one after the prefixes and REX on. -/
theorem decodeShape_hasStandIn {b : Byte} {bs u : List Byte} (hsplits : Splits mode64 P rex (b :: (bs ++ u)))
    (h : decodeShape mode64 P rex (b :: bs) = .more next)
    (hu : (decodeShape mode64 P rex (b :: (bs ++ u))).Answers i extra) :
    s.HasStandIn next (fun tail => decodeShape mode64 P rex (b :: (bs ++ tail))) i extra := by
  by_cases h0F : b = 0x0F
  · subst h0F
    exact legacy_hasStandIn hsplits h hu
  by_cases hC5 : b = 0xC5
  · subst hC5
    exact vexTwo_hasStandIn h (prefixRefusals_of_accepted hsplits.rexByte (accepted_of_answers hu)) hu
  by_cases hC4 : b = 0xC4
  · subst hC4
    exact vexThree_hasStandIn h hu
  by_cases h62 : b = 0x62
  · subst h62
    exact evex_hasStandIn h hu
  · rw [decodeShape_other h0F hC5 hC4 h62] at h
    cases h

/-! ### The decoder -/

/-- What the shape answers on no more than 15 bytes, decoding answers (R78). -/
theorem answers_decode {bs : List Byte} (hsplits : Splits mode64 P rex bs) (hlen : i.len + extra ≤ 15) :
    (decode mode64 (P ++ rex.toList ++ bs)).Answers i extra ↔ (decodeShape mode64 P rex bs).Answers i extra := by
  rw [decode_of_splits hsplits, limited_answers hlen]

theorem decode_answers_len_le {bs : List Byte} (h : (decode mode64 bs).Answers i extra) : i.len + extra ≤ 15 := by
  obtain ⟨P, rex, rest, rfl, hsplits⟩ := exists_splits mode64 bs
  rw [decode_of_splits hsplits] at h
  exact answers_len_le h

/-- What prefixes do not decide for legacy forms, the first ones of them do not, without REX. -/
theorem legacyRefusals_left {Q : List Byte} {rexBits : Byte} (h : firstRefusal (legacyRefusals mode64 (P ++ Q) rexBits) = none) :
    firstRefusal (legacyRefusals mode64 P 0) = none := by
  obtain ⟨hprefixes, -, -⟩ := (legacyRefusals_eq_none mode64 _).1 h
  have hleft := prefixRefusals_left (prefixRefusals_of_legacy hprefixes)
  simp only [legacyPrefixRefusals, firstRefusal_eq_none, List.forall_mem_cons, List.contains_append, Bool.or_eq_false_iff]
    at hprefixes
  obtain ⟨⟨⟨hF2, -⟩, hF3, -⟩, -⟩ := hprefixes
  refine (legacyRefusals_eq_none mode64 P).2 ⟨?_, by decide, fun _ => by decide⟩
  rw [legacyPrefixRefusals, firstRefusal_eq_none, List.forall_mem_cons, hF2, hF3]
  exact ⟨rfl, firstRefusal_eq_none.1 hleft⟩

/-- Prefixes and REX with nothing after them: the least that a form they go on to has. -/
theorem prefixes_le_len {u : List Byte} (hP : ∀ b ∈ P, isPrefix b = true)
    (hrex : ∀ b ∈ rex, mode64 = true ∧ bits b 4 4 = 4) (hu : (decode mode64 (P ++ rex.toList ++ u)).Answers i extra) :
    (firstRefusal (legacyRefusals mode64 P (rex.getD 0)) = none ∧ P.length + rex.isSome.toNat + 3 ≤ i.len + extra)
      ∨ (firstRefusal (prefixRefusals mode64 P) = none ∧ P.length + rex.isSome.toNat + 4 ≤ i.len + extra) := by
  have hlen := decode_answers_len_le hu
  cases rex with
  | some r =>
    have hsplits : Splits mode64 P (some r) u := ⟨hP, hrex, nofun⟩
    exact le_len_of_answers hsplits ((answers_decode hsplits hlen).1 hu)
  | none =>
    obtain ⟨Q, rex', rest, rfl, hsplits⟩ := exists_splits mode64 u
    have hall : Splits mode64 (P ++ Q) rex' rest :=
      ⟨List.forall_mem_append.2 ⟨hP, hsplits.prefixes⟩, hsplits.rexByte, hsplits.head⟩
    rw [Option.toList_none, List.append_nil, ← List.append_assoc, ← List.append_assoc, answers_decode hall hlen] at hu
    rcases le_len_of_answers hall hu with ⟨hnone, hle⟩ | ⟨hnone, hle⟩
    · refine .inl ⟨legacyRefusals_left hnone, ?_⟩
      rw [List.length_append] at hle
      simp only [Option.isSome_none, Bool.toNat_false]
      omega
    · refine .inr ⟨prefixRefusals_left hnone, ?_⟩
      rw [List.length_append] at hle
      simp only [Option.isSome_none, Bool.toNat_false]
      omega

theorem prefixes_hasStandIn {u : List Byte} (hP : ∀ b ∈ P, isPrefix b = true)
    (hrex : ∀ b ∈ rex, mode64 = true ∧ bits b 4 4 = 4) (hu : (decode mode64 (P ++ rex.toList ++ u)).Answers i extra) :
    s.HasStandIn .opcode (fun tail => decode mode64 (P ++ rex.toList ++ tail)) i extra := by
  have hshort := decode_answers_len_le hu
  have hdecode : ∀ {b bs i' extra'}, b ∈ ([0x0F, 0xC5] : List Byte) → s.StandsFor i' extra' i extra →
      (decodeShape mode64 P rex (b :: bs)).Answers i' extra' →
      (decode mode64 (P ++ rex.toList ++ (b :: bs))).Answers i' extra' := fun hb hstands hanswers =>
    (answers_decode (splits_of_head hb hP hrex _) (hstands.len_le.trans hshort)).2 hanswers
  rcases prefixes_le_len hP hrex hu with ⟨hnone, hlen⟩ | ⟨hnone, hlen⟩
  · obtain ⟨modrm, hmodrm, i', extra', hanswers, hstands⟩ := legacy_standIn hP hrex hnone hlen
    have hlisted : ∀ modrm ∈ [(0xC0 : Byte), 0x00], [0x0F, Elem.opcode .byte, modrm] ∈ opcodeTails := by decide
    exact ⟨_, hlisted modrm hmodrm, i', extra', hdecode (by simp) hstands hanswers, hstands⟩
  · obtain ⟨i', extra', hanswers, hstands⟩ := vex_standIn hP hrex hnone hlen
    exact ⟨_, (by decide : [0xC5, 0xF9, Elem.opcode .byte, 0xC0] ∈ opcodeTails), i', extra', hdecode (by simp) hstands hanswers,
      hstands⟩

/-- Whatever form bytes that end early go on to, a listed completion of them stands in for it. -/
theorem decode_hasStandIn {bs u : List Byte} (h : decode mode64 bs = .more next)
    (hu : (decode mode64 (bs ++ u)).Answers i extra) :
    s.HasStandIn next (fun tail => decode mode64 (bs ++ tail)) i extra := by
  obtain ⟨P, rex, rest, rfl, hsplits⟩ := exists_splits mode64 bs
  rw [decode_of_splits hsplits, limited_eq_more] at h
  obtain ⟨hmore, -⟩ := h
  match rest with
  | [] =>
    cases eq_missing_of_moreUnless hmore
    rw [List.append_nil] at hu ⊢
    exact prefixes_hasStandIn hsplits.prefixes hsplits.rexByte hu
  | b :: bs =>
    have hlen := decode_answers_len_le hu
    have hsplit : ∀ v, Splits mode64 P rex (b :: (bs ++ v)) := fun v => splits_append hsplits fun _ => List.cons_ne_nil _ _
    have happend : ∀ v, P ++ rex.toList ++ b :: bs ++ v = P ++ rex.toList ++ b :: (bs ++ v) := fun v => List.append_assoc ..
    rw [happend, answers_decode (hsplit u) hlen] at hu
    obtain ⟨tail, hmem, i', extra', hanswers, hstands⟩ := decodeShape_hasStandIn (s := s) (hsplit u) hmore hu
    refine ⟨tail, hmem, i', extra', ?_, hstands⟩
    show (decode mode64 (P ++ rex.toList ++ b :: bs ++ tail)).Answers i' extra'
    rw [happend, answers_decode (hsplit tail) (hstands.len_le.trans hlen)]
    exact hanswers

/-- No form that bytes which end early go on to ends before the first missing byte: the bytes would decode to it. -/
theorem length_lt_of_answers {bs u : List Byte} (h : decode mode64 bs = .more next)
    (hu : (decode mode64 (bs ++ u)).Answers i extra) : bs.length < i.len + extra := by
  obtain ⟨P, rex, code, tail, j, ud, hbytes, hreads⟩ := exists_reads (accepted_of_answers hu)
  have hshort : ¬ ((j.extraBytes P rex != 0 || ud) = true ∧ 15 < j.len + j.extraBytes P rex) := fun hlong => by
    rw [hbytes, decode_of_reads hreads, if_pos hlong] at hu
    cases accepted_of_answers hu
  rw [hbytes, decode_of_reads hreads, if_neg hshort, answers_answer_ne_zero] at hu
  obtain ⟨rfl, rfl⟩ := hu
  rw [← length_of_reads hreads]
  by_contra hle
  obtain ⟨v, rfl⟩ := List.prefix_of_prefix_length_le ⟨tail, rfl⟩ ⟨u, hbytes⟩ (Nat.le_of_not_lt hle)
  rw [decode_of_reads hreads, if_neg hshort] at h
  exact not_more_of_accepted (accepted_answer ..) h

end Sys2Proof.Laws

namespace Sys2Proof.Machine

open Laws

variable {s : State} {i i' : Instr} {extra extra' : Nat}

/-! ### R21's and R44's refusals of a form and of one that stands in for it -/

theorem refusalAt_cases (s : State) (i : Instr) (extra : Nat) :
    s.refusalAt i extra = none ∨ s.refusalAt i extra = some .alignmentCheckUnmodelled ∨ s.refusalAt i extra = some .pcWrap := by
  unfold State.refusalAt formRefusal
  split_ifs <;> simp

theorem refusalAt_eq_none_of_standsFor (h : s.StandsFor i' extra' i extra) (hnone : s.refusalAt i extra = none) :
    s.refusalAt i' extra' = none := by
  rw [State.refusalAt, formRefusal_eq_none] at hnone ⊢
  obtain ⟨hfits, haligned⟩ := hnone
  have hlen := h.len_le
  refine ⟨by omega, ?_⟩
  by_contra hrefused
  rw [h.aligned (by simpa using hrefused)] at haligned
  cases haligned

theorem refusalAt_ne_pcWrap_of_standsFor (h : s.StandsFor i' extra' i extra) (hwrap : s.refusalAt i extra ≠ some .pcWrap) :
    s.refusalAt i' extra' ≠ some .pcWrap := by
  rw [Ne, State.refusalAt, formRefusal_eq_pcWrap] at hwrap ⊢
  have hlen := h.len_le
  omega

/-- What bytes meet of the refusals, by the form that they are answered with. -/
theorem completion_iff_answers (s : State) (bytes : List Byte) (r : Option Refusal) :
    s.completion bytes = some r ↔ ∃ i extra, (decode s.cfg.mode64 bytes).Answers i extra ∧ s.refusalAt i extra = r := by
  rw [completion_eq_some]
  constructor
  · rintro (⟨i, rest, hd, hr⟩ | ⟨i, extra, hd, hr⟩)
    · exact ⟨i, 0, .inl ⟨rfl, rest, hd⟩, hr⟩
    · exact ⟨i, extra, .inr hd, hr⟩
  · rintro ⟨i, extra, ⟨rfl, rest, hd⟩ | hd, hr⟩
    · exact .inl ⟨i, rest, hd, hr⟩
    · exact .inr ⟨i, extra, hd, hr⟩

/-! ### A missing byte (R81 step 5, R156 items 0 and 1) -/

theorem missingRefusal_cases (s : State) (next : Missing) :
    s.missingRefusal next = none ∨ s.missingRefusal next = some .alignmentCheckUnmodelled
      ∨ s.missingRefusal next = some .pcWrap := by
  unfold State.missingRefusal
  simp only
  split_ifs <;> simp

/-- R44's name is answered where one of the listed completions meets it and none is not refused. -/
theorem missingRefusal_eq_alignment (s : State) (next : Missing) :
    s.missingRefusal next = some .alignmentCheckUnmodelled ↔
      s.missingRefusal next ≠ none ∧ ∃ tail ∈ completionTails s.acChecking next,
        s.completion (s.window ++ tail) = some (some .alignmentCheckUnmodelled) := by
  have hlisted : (∃ tail ∈ completionTails s.acChecking next,
      s.completion (s.window ++ tail) = some (some .alignmentCheckUnmodelled))
      ↔ (completionTails s.acChecking next).any
        (fun tail => s.completion (s.window ++ tail) == some (some .alignmentCheckUnmodelled)) = true := by
    simp only [List.any_eq_true, beq_iff_eq]
  rw [hlisted]
  unfold State.missingRefusal
  simp only
  split_ifs with hnone halign <;> simp_all

section Missing

variable {next : Missing} (h : decode s.cfg.mode64 s.window = .more next)

include h

theorem missingRefusal_eq_none_iff : s.missingRefusal next = none ↔ s.CanMeet none := by
  rw [missingRefusal_eq_none]
  constructor
  · rintro ⟨tail, -, hc⟩
    exact canMeet_of_completion s tail none hc
  · rintro ⟨u, i, extra, hu, hr⟩
    obtain ⟨tail, hmem, i', extra', hanswers, hstands⟩ := decode_hasStandIn (s := s) h hu
    exact ⟨tail, hmem, (completion_iff_answers ..).2 ⟨i', extra', hanswers, refusalAt_eq_none_of_standsFor hstands hr⟩⟩

theorem missingRefusal_eq_alignment_iff :
    s.missingRefusal next = some .alignmentCheckUnmodelled ↔
      ¬ s.CanMeet none ∧ s.CanMeet (some .alignmentCheckUnmodelled) := by
  rw [missingRefusal_eq_alignment, Ne, missingRefusal_eq_none_iff h]
  refine and_congr_right fun hnone => ⟨?_, ?_⟩
  · rintro ⟨tail, -, hc⟩
    exact canMeet_of_completion s tail _ hc
  · rintro ⟨u, i, extra, hu, hr⟩
    obtain ⟨tail, hmem, i', extra', hanswers, hstands⟩ := decode_hasStandIn (s := s) h hu
    refine ⟨tail, hmem, (completion_iff_answers ..).2 ⟨i', extra', hanswers, ?_⟩⟩
    rcases refusalAt_cases s i' extra' with hr' | hr' | hr'
    · exact absurd ⟨tail, i', extra', hanswers, hr'⟩ hnone
    · exact hr'
    · exact absurd hr' (refusalAt_ne_pcWrap_of_standsFor hstands (by simp [hr]))

theorem missingRefusal_eq_pcWrap_iff :
    s.missingRefusal next = some .pcWrap ↔ ¬ s.CanMeet none ∧ ¬ s.CanMeet (some .alignmentCheckUnmodelled) := by
  have hnone := missingRefusal_eq_none_iff h
  have halign := missingRefusal_eq_alignment_iff h
  rcases missingRefusal_cases s next with hr | hr | hr <;> simp only [hr, reduceCtorEq, Option.some.injEq] at hnone halign ⊢ <;>
    tauto

/-- A byte that is missing is one of the form that the bytes go on to: where it is at the top, R21 refuses all of these. -/
theorem missingRefusal_of_top (htop : 2 ^ s.addrBits ≤ s.pc.toNat + (s.window.length + 1)) :
    s.missingRefusal next = some .pcWrap := by
  have hwrap : ∀ {r}, s.CanMeet r → r = some .pcWrap := by
    rintro r ⟨u, i, extra, hu, rfl⟩
    have hlong := length_lt_of_answers h hu
    rw [State.refusalAt, formRefusal_eq_pcWrap]
    omega
  exact (missingRefusal_eq_pcWrap_iff h).2 ⟨fun hmeets => absurd (hwrap hmeets) (by decide),
    fun hmeets => absurd (hwrap hmeets) (by decide)⟩

end Missing

end Sys2Proof.Machine

namespace Sys2Proof.Proofs

open Machine Laws

/-- Settles O18: the listed completions stand in for all. -/
theorem missingRefusalIsWhatEveryCompletionMeets : Obligations.MissingRefusalIsWhatEveryCompletionMeets := fun _ _ h =>
  ⟨missingRefusal_eq_none_iff h, missingRefusal_eq_alignment_iff h, missingRefusal_eq_pcWrap_iff h⟩

/-- Settles O20: R21's refusal is the first of a form's, and all that a missing byte at the top leaves open. -/
theorem instructionPastTheTopIsRefused : Obligations.InstructionPastTheTopIsRefused := by
  refine ⟨fun i s htop => ?form, fun s next hended hmore htop => ?missing⟩
  case form =>
    have hrefusal := (formRefusal_eq_pcWrap i.formClass i.len (i.access s) s).2 htop
    exact exec_eq_refused_of_checkForm (by rw [checkForm, hrefusal])
  case missing =>
    obtain ⟨hrefused, -⟩ := missingInstructionByteFaults s next hended hmore
    exact hrefused _ (missingRefusal_of_top hmore htop)

end Sys2Proof.Proofs
end
